-- ==== Sys2Proof/Word.lean ====
section
/-! DEFINITION. The word types of the block (00_scope.md R6, R8). -/

namespace Sys2Proof

/-- The 32-bit word of the block (00_scope.md R6); arithmetic wraps modulo 2^32 (R8). -/
abbrev Word := BitVec 32

/-- A byte of memory (20_memory.md R70). -/
abbrev Byte := BitVec 8

/-- A Boolean stored in a field: `false 0, true 1` (41_node_codec.md R174). -/
def Word.ofBool (b : Bool) : Word := if b then 1 else 0

end Sys2Proof
end

