-- ==== Sys2Proof/Syntax.lean ====
section
/-! DEFINITION. The instructions of the block: one constructor per row of spec/opcode_table.json, with the operand
types they carry, the names of registers and fields, and the packets in which a host agent issues an instruction. -/

namespace Sys2Proof

/-! ## Registers and fields (10_state.md sections 2 to 4) -/

/-- Channel number as the command word carries it (30_encoding.md R117). -/
abbrev ChId := BitVec 8

/-- The registers of one channel by name (10_state.md R21, R31, R32, R34, R35, R36). -/
inductive Reg where
  | ctr1 | ctr2 | cbr1 | csar | cdar | ctr3 | cbr2 | cllr
  | clbar | ccr | csr | cfcr | secAttr
  deriving DecidableEq, Repr, Inhabited

/-- The named fields (30_encoding.md R115); `secAttr` fields are those of 10_state.md R36. A flag is a field of CSR and,
as `c…`, the field of CFCR that clears it (10_state.md R35). -/
inductive Fld where
  | srcWidth | srcInc | srcBurst | padAlign | srcByteXchg | srcPort | srcSec
  | dstWidth | dstInc | dstBurst | dstByteXchg | dstHalfXchg | dstPort | dstSec
  | reqSel | swReq | dstReq | blockReq | trigMode | trigSel | trigPol | eventMode
  | bndt | brc | srcDec | dstDec | blkSrcDec | blkDstDec
  | sa | da
  | srcBurstOfs | dstBurstOfs | blkSrcOfs | blkDstOfs
  | la | uCllr | uCbr2 | uCtr3 | uCdar | uCsar | uCbr1 | uCtr2 | uCtr1
  | lba
  | en | reset | susp | tcie | htie | dteie | uleie | useie | suspie | toie | prio
  | idle | tc | ht | dte | ule | use | suspf | tov
  | ctc | cht | cdte | cule | cuse | csuspf | ctov
  | chSec | chPriv
  deriving DecidableEq, Repr, Inhabited

/-- The register a field belongs to (30_encoding.md R115). -/
def Fld.reg : Fld → Reg
  | .srcWidth | .srcInc | .srcBurst | .padAlign | .srcByteXchg | .srcPort | .srcSec
  | .dstWidth | .dstInc | .dstBurst | .dstByteXchg | .dstHalfXchg | .dstPort | .dstSec => .ctr1
  | .reqSel | .swReq | .dstReq | .blockReq | .trigMode | .trigSel | .trigPol | .eventMode => .ctr2
  | .bndt | .brc | .srcDec | .dstDec | .blkSrcDec | .blkDstDec => .cbr1
  | .sa => .csar
  | .da => .cdar
  | .srcBurstOfs | .dstBurstOfs => .ctr3
  | .blkSrcOfs | .blkDstOfs => .cbr2
  | .la | .uCllr | .uCbr2 | .uCtr3 | .uCdar | .uCsar | .uCbr1 | .uCtr2 | .uCtr1 => .cllr
  | .lba => .clbar
  | .en | .reset | .susp | .tcie | .htie | .dteie | .uleie | .useie | .suspie | .toie | .prio => .ccr
  | .idle | .tc | .ht | .dte | .ule | .use | .suspf | .tov => .csr
  | .ctc | .cht | .cdte | .cule | .cuse | .csuspf | .ctov => .cfcr
  | .chSec | .chPriv => .secAttr

/-- A set of the seven event flags, or of their interrupt enables (10_state.md R32, R34): one Boolean per flag. -/
structure FlagSet where
  ht : Bool
  tc : Bool
  suspf : Bool
  dte : Bool
  use : Bool
  ule : Bool
  tov : Bool
  deriving DecidableEq, Repr, Inhabited

/-! ## Operand types (41_node_codec.md R170, R171; 43_channel_config.md; 44_transfer_engine.md) -/

/-- Node kind (10_state.md R20). -/
inductive Kind where
  | linear | twoDimensional
  deriving DecidableEq, Repr, Inhabited

/-- Transfer direction (41_node_codec.md R170). -/
inductive Direction where
  | memToMem | periphToMem | memToPeriph
  deriving DecidableEq, Repr, Inhabited

/-- Address-increment policy (41_node_codec.md R170). -/
inductive Inc where
  | fixed | incremented
  deriving DecidableEq, Repr, Inhabited

/-- Data width; code 3 is reserved and kept as a number (10_state.md R22, 30_encoding.md R122). -/
inductive Width where
  | byte | halfWord | word | reserved
  deriving DecidableEq, Repr, Inhabited

/-- Hardware request mode (41_node_codec.md R170). -/
inductive HwMode where
  | burst | block
  deriving DecidableEq, Repr, Inhabited

/-- Port of one side (41_node_codec.md R170). -/
inductive Port where
  | port0 | port1
  deriving DecidableEq, Repr, Inhabited

/-- Trigger polarity; code 3 is reserved (10_state.md R23, 30_encoding.md R122). -/
inductive Polarity where
  | none | rising | falling | reserved
  deriving DecidableEq, Repr, Inhabited

/-- Trigger granularity (41_node_codec.md R170). -/
inductive TrigMode where
  | block | repeatedBlock | node | singleBurst
  deriving DecidableEq, Repr, Inhabited

/-- Direction of an address offset (41_node_codec.md R171). -/
inductive Dir where
  | add | subtract
  deriving DecidableEq, Repr, Inhabited

/-- Callback slot (10_state.md R42). -/
inductive Slot where
  | half | complete | abort | suspend | error
  deriving DecidableEq, Repr, Inhabited

/-- Interrupt subset of a start (44_transfer_engine.md R261). -/
inductive IntSet where
  | silent | none | halfComplete | timeoutOnly | default
  deriving DecidableEq, Repr, Inhabited

/-- Level of a poll (44_transfer_engine.md R277). -/
inductive Level where
  | halfComplete | fullComplete
  deriving DecidableEq, Repr, Inhabited

/-- Operand of `set_config_direct` (43_channel_config.md R224). -/
structure DirectConfig where
  request : Word
  direction : Direction
  srcInc : Inc
  dstInc : Inc
  srcWidth : Width
  dstWidth : Width
  priority : Word
  deriving DecidableEq, Repr, Inhabited

/-- Trigger part of a configuration (41_node_codec.md R170). -/
structure Trigger where
  source : Word
  polarity : Polarity
  mode : TrigMode
  deriving DecidableEq, Repr, Inhabited

/-- Data-handling part of a configuration (41_node_codec.md R170). -/
structure DataHandling where
  srcByteXchg : Bool
  dstByteXchg : Bool
  dstHalfXchg : Bool
  padAlign : Word
  deriving DecidableEq, Repr, Inhabited

/-- Repeat-block record (41_node_codec.md R171). -/
structure RepeatBlock where
  blockCount : Word
  srcBurstOfs : Word
  srcBurstDir : Dir
  dstBurstOfs : Word
  dstBurstDir : Dir
  srcBlockOfs : Word
  srcBlockDir : Dir
  dstBlockOfs : Word
  dstBlockDir : Dir
  deriving DecidableEq, Repr, Inhabited

/-- Operand of `set_security` (43_channel_config.md R247). -/
structure Security where
  chSec : Bool
  chPriv : Bool
  srcSec : Bool
  dstSec : Bool
  deriving DecidableEq, Repr, Inhabited

/-- A node configuration (41_node_codec.md R170). -/
structure NodeConfig where
  request : Word
  direction : Direction
  srcInc : Inc
  dstInc : Inc
  srcWidth : Width
  dstWidth : Width
  hwMode : HwMode
  srcPort : Port
  dstPort : Port
  srcBurstLen : Word
  dstBurstLen : Word
  trigger : Trigger
  data : DataHandling
  srcSec : Bool
  dstSec : Bool
  srcAddr : Word
  dstAddr : Word
  size : Word
  rb : Option RepeatBlock
  deriving DecidableEq, Repr, Inhabited

/-- A full node: its kind and its words in bank-index order (41_node_codec.md R173, 30_encoding.md R101, R102). -/
inductive Node where
  | linear (ctr1 ctr2 cbr1 csar cdar cllr : Word)
  | twoDimensional (ctr1 ctr2 cbr1 csar cdar ctr3 cbr2 cllr : Word)
  deriving DecidableEq, Repr, Inhabited

/-! ## Instructions -/

/-- One constructor per row of spec/opcode_table.json (00_scope.md R2): host commands (30_encoding.md R118),
pseudo-commands (R128), link words (R104, R105), node formats (R101 to R103), register-bus micro-operations
(40_register_file.md) and the steps of the engine and the arbiter (45_channel_engine.md, 46_arbiter.md). -/
inductive Instr where
  -- configuration commands
  | init (ch : ChId)
  | deinit (ch : ChId)
  | setConfigDirect (ch : ChId) (cfg : DirectConfig)
  | getConfigDirect (ch : ChId)
  | setConfigLinkedList (ch : ChId) (priority : Word)
  | getConfigLinkedList (ch : ChId)
  | setHwRequestMode (ch : ChId) (mode : HwMode)
  | resetHwRequestMode (ch : ChId)
  | getHwRequestMode (ch : ChId)
  | setPort (ch : ChId) (src dst : Port)
  | resetPort (ch : ChId)
  | getPort (ch : ChId)
  | setBurst (ch : ChId) (srcLen dstLen : Word)
  | resetBurst (ch : ChId)
  | getBurst (ch : ChId)
  | setTrigger (ch : ChId) (t : Trigger)
  | resetTrigger (ch : ChId)
  | getTrigger (ch : ChId)
  | setDataHandling (ch : ChId) (d : DataHandling)
  | resetDataHandling (ch : ChId)
  | getDataHandling (ch : ChId)
  | setRepeatBlock (ch : ChId) (rb : RepeatBlock)
  | resetRepeatBlock (ch : ChId)
  | getRepeatBlock (ch : ChId)
  | setSecurity (ch : ChId) (sec : Security)
  | resetSecurity (ch : ChId)
  | getSecurity (ch : ChId)
  | registerCallback (ch : ChId) (slot : Slot) (f : Word)
  | setUserData (ch : ChId) (p : Word)
  | getUserData (ch : ChId)
  -- transfer commands and the handler
  | startDirect (ch : ChId) (src dst size : Word) (set : IntSet)
  | startLinkedList (ch : ChId) (q : Word) (set : IntSet)
  | suspend (ch : ChId)
  | suspendIt (ch : ChId)
  | resume (ch : ChId)
  | abort (ch : ChId)
  | abortIt (ch : ChId)
  | pollForTransfer (ch : ChId) (level : Level) (timeout : Word)
  | irqHandler (ch : ChId)
  | getState (ch : ChId)
  | getLastError (ch : ChId)
  | getRemainingBytes (ch : ChId)
  -- node codec and queues
  | fillNode (kind : Kind) (c : NodeConfig)
  | decodeNode (n : Node)
  | convertToDynamic (q : Word)
  | convertToStatic (q : Word)
  | updateDynamicQueueLinks (q : Word)
  | queueInit (q : Word) (kind : Kind)
  | queueInsert (q pos addr : Word)
  | queueRemove (q pos : Word)
  | queueReplace (q pos addr : Word)
  | queueSetCircular (q pos : Word)
  | queueClearCircular (q : Word)
  -- pseudo-commands
  | startDirectSilent (ch : ChId) (src dst size : Word)
  | startDirectIt (ch : ChId) (src dst size : Word)
  | startDirectItOpt (ch : ChId) (src dst size : Word) (set : IntSet)
  | startLinkedListSilent (ch : ChId) (q : Word)
  | startLinkedListIt (ch : ChId) (q : Word)
  | startLinkedListItOpt (ch : ChId) (q : Word) (set : IntSet)
  -- link words: bit i of `upd` is the update bit of bank index i, `la` is bits 15..2 of the next node's address
  | link (ch : ChId) (upd : BitVec 8) (la : BitVec 14)
  | linkEnd (ch : ChId)
  | linkStaticLinear (ch : ChId) (la : BitVec 14)
  | linkStaticTwoDimensional (ch : ChId) (la : BitVec 14)
  | linkDynamic (ch : ChId) (upd : BitVec 7) (la : BitVec 14)
  -- node formats: `upd` is the update mask in CLLR, which selects the format (bit i for bank index i)
  | nLinS (ch : ChId) (upd : BitVec 8)
  | n2dS (ch : ChId) (upd : BitVec 8)
  | nLinD (ch : ChId) (upd : BitVec 8)
  | n2dD (ch : ChId) (upd : BitVec 8)
  -- register-bus micro-operations
  | regRead (ch : ChId) (r : Reg)
  | fieldWrite (ch : ChId) (f : Fld) (v : Word)
  | regWrite (ch : ChId) (r : Reg) (w : Word)
  | ctrlWordWrite (ch : ChId) (r : Reg) (fs : List (Fld × Word))
  | flagClear (ch : ChId) (fs : FlagSet)
  | ieWrite (ch : ChId) (fs : FlagSet)
  | ieSet (ch : ChId) (fs : FlagSet)
  | hwEnable (ch : ChId)
  | status (ch : ChId)
  | linkLoad (ch : ChId)
  | hwSuspendReq (ch : ChId)
  | hwResume (ch : ChId)
  | hwReset (ch : ChId)
  -- engine and arbiter steps
  | eStart (ch : ChId)
  | eData (ch : ChId)
  | eBlockEnd (ch : ChId)
  | eComplete (ch : ChId)
  | eLink (ch : ChId)
  | eRaiseDte (ch : ChId)
  | eRaiseUle (ch : ChId)
  | eRaiseUse (ch : ChId)
  | eRaiseTo (ch : ChId)
  | eSuspAck (ch : ChId)
  | aGrant (ch : ChId)
  deriving DecidableEq, Repr, Inhabited

/-! ## Packets: what a host agent, or the descriptor decoder, hands to the instruction decoder

The packet's constructor is the "format" column of spec/opcode_table.json (log 20, 30): the same 32 bits mean
different things as a link word and as a write of CFCR. -/

/-- One access of the register bus (40_register_file.md R140). -/
inductive BusOp where
  /-- read of the register (R141) -/
  | read
  /-- read of CSR as the status (R149) -/
  | status
  /-- one 32-bit write (R143) -/
  | write (w : Word)
  /-- read-modify-write of named fields (R142, R145) -/
  | fields (fs : List (Fld × Word))
  /-- one atomic write of the masked bits only (the CCR micro-operations, R147 to R156) -/
  | bits (mask w : Word)
  /-- one atomic OR of bits (R147, `ie_set`) -/
  | orBits (w : Word)
  deriving DecidableEq, Repr, Inhabited

/-- An encoded instruction (30_encoding.md R100). -/
inductive Packet where
  /-- command word and argument words (R117) -/
  | cmd (w : BitVec 16) (args : List Word)
  /-- access of the register bus of a channel (R119) -/
  | bus (ch : ChId) (r : Reg) (op : BusOp)
  /-- a link word for CLLR of a channel (R104) -/
  | linkWord (ch : ChId) (w : Word)
  /-- the update mask in CLLR as the selector of the next node's format (R107) -/
  | node (ch : ChId) (upd : BitVec 8)
  deriving DecidableEq, Repr, Inhabited

end Sys2Proof
end

