-- ==== Sys2Proof/Config.lean ====
section
/-! DEFINITION. The named parameters of 00_scope.md R7 that are plain data (held in the state's `cfg` and changed by
no step; their default values stand in Decode.lean), the schedule's turns, and the free values: constants without a
body, so that no proof can see what they are. -/

namespace Sys2Proof

/-- `BUILD` (00_scope.md R7, R11): what a precondition violation does. -/
inductive Build where
  | checked | debug | unchecked
  deriving DecidableEq, Repr, Inhabited

/-- `FEATURES` (00_scope.md R7). -/
structure Features where
  linkedList : Bool
  security : Bool
  errorCodes : Bool
  userData : Bool
  deriving DecidableEq, Repr, Inhabited

/-- Kind of a memory access (20_memory.md R80). -/
inductive AccessKind where
  | dataRead | dataWrite | linkRead
  deriving DecidableEq, Repr, Inhabited

/-- The arguments of `Admit` (20_memory.md R80): channel, `CH_SEC`, `CH_PRIV`, the side's security bit, port, kind,
address, byte count. -/
structure Access where
  ch : Nat
  chSec : Bool
  chPriv : Bool
  sideSec : Bool
  port : Bool
  kind : AccessKind
  addr : Word
  n : Nat
  deriving DecidableEq, Repr, Inhabited

/-- One denial of the platform: an access that matches every named component, with its address in `lo..hi`, is
refused. Any total Boolean `Admit` on its finite domain is a list of denials (log 11). -/
structure Denial where
  ch : Option Nat
  chSec : Option Bool
  chPriv : Option Bool
  sideSec : Option Bool
  port : Option Bool
  kind : Option AccessKind
  n : Option Nat
  lo : Word
  hi : Word
  deriving DecidableEq, Repr, Inhabited

/-- Where a field lies whose width the document leaves open (30_encoding.md R114). -/
structure Place where
  lo : Nat
  width : Nat
  deriving DecidableEq, Repr, Inhabited

/-- `LAYOUT` (00_scope.md R7, 30_encoding.md R114): the low bit position of every field of 10_state.md, and the width of
the three fields whose width no rule gives. The register of a field is the one that 10_state.md R22 to R36 name; the
other widths are those of the same rules; CSAR, CDAR, `LA` (bits 15..2) and `LBA` (bits 31..16) have no choice (R25,
R28, R31). A flag has one position in CSR and CFCR (R35, 30_encoding.md R115). Log 3. -/
structure Layout where
  /-- CTR1 (10_state.md R22) -/
  (srcWidth srcInc srcBurst padAlign srcByteXchg srcPort srcSec : Nat)
  (dstWidth dstInc dstBurst dstByteXchg dstHalfXchg dstPort dstSec : Nat)
  /-- CTR2 (R23) -/
  (reqSel : Place)
  (swReq dstReq blockReq trigMode : Nat)
  (trigSel : Place)
  (trigPol eventMode : Nat)
  /-- CBR1 (R24) -/
  (bndt brc srcDec dstDec blkSrcDec blkDstDec : Nat)
  /-- CTR3 and CBR2 (R26, R27) -/
  (srcBurstOfs dstBurstOfs blkSrcOfs blkDstOfs : Nat)
  /-- the update bits of CLLR (R28) -/
  (uCllr uCbr2 uCtr3 uCdar uCsar uCbr1 uCtr2 uCtr1 : Nat)
  /-- CCR (R32) -/
  (en reset susp tcie htie dteie uleie useie suspie toie : Nat)
  (prio : Place)
  /-- CSR and CFCR (R34, R35) -/
  (idle tc ht dte ule use suspf tov : Nat)
  /-- SecAttr (R36) -/
  (chSec chPriv : Nat)
  deriving DecidableEq, Repr, Inhabited

/-- The parameters of 00_scope.md R7 that are plain data; `NCH` and `TWO_D_CAPABLE` are the channel list itself. -/
structure Cfg where
  /-- `LAYOUT` -/
  layout : Layout
  /-- The registers that a full 2-D node stores, bit i for bank index i; `NODE_WORDS(TwoDimensional)` is their number,
  8, or 7 with one register dropped (90_conflicts.md C1; log 42) -/
  nodeRegs2d : BitVec 8
  /-- `BUILD` -/
  build : Build
  /-- `FEATURES` -/
  features : Features
  /-- `NPRIO` -/
  nprio : Nat
  /-- `ABORT_TIMEOUT` in ms -/
  abortTimeout : Word
  /-- `TIMEOUT_STRICT`: expiry test is `elapsed > T`, otherwise `elapsed >= T` -/
  timeoutStrict : Bool
  /-- `BURST_UNIT = Beats`, otherwise `Bytes` -/
  burstBeats : Bool
  /-- `ARB_POLICY = StrictPriority`, otherwise the unconstrained choice -/
  strictPriority : Bool
  /-- `CLOSING_LINK_MASK = All`, otherwise `TargetPresent` -/
  closingAll : Bool
  /-- A loaded configuration with the reserved `TRIG_POL = 3` is not `CfgValid`, as 30_encoding.md R122 says; otherwise 3
  counts as no trigger, as 10_state.md R23, 46_arbiter.md R342 and the list of 45_channel_engine.md R303 say. The rules
  disagree: DESIGN CHOICE (log 47) -/
  polarityChecked : Bool
  /-- `Admit` -/
  denials : List Denial
  /-- address ranges of peripheral registers, whose reads answer with an oracle value (20_memory.md R81) -/
  devices : List (Word × Word)
  /-- callback bodies by identifier (93_implementation_defined.md U14): the commands the callback issues -/
  bodies : List (Word × List Packet)
  deriving DecidableEq, Repr, Inhabited

/-- `SUSPEND_TIMEOUT`, 5 ms (00_scope.md R6). -/
def suspendTimeout : Word := 5

/-- One move of one agent (00_scope.md R12): the schedule is a list of turns (log 1). A turn of a host agent says how
many host operations that agent takes before another agent may move (log 2). -/
inductive Turn where
  /-- HOST-APP issues an encoded instruction -/
  | issue (p : Packet) (quantum : Nat)
  /-- HOST-APP goes on with its command in progress -/
  | app (quantum : Nat)
  /-- HOST-APP stores one byte of memory itself (20_memory.md R88). DESIGN CHOICE (log 55): no rule gives the width of such a
  store; a wider one is several turns -/
  | store (addr : Word) (v : Byte)
  /-- HOST-APP stores a filled node, one word at a time, with its kind tag (10_state.md R46) -/
  | node (addr : Word) (n : Node) (quantum : Nat)
  /-- the platform starts the handler of a channel whose line is high (60_exceptions.md R354) -/
  | irq (ch : Nat)
  /-- HOST-IRQ goes on with the handler that is running -/
  | isr (quantum : Nat)
  /-- the arbiter grants a channel (46_arbiter.md R343), which takes its data or link step -/
  | grant (ch : ChId)
  /-- the engine answers a suspend request (45_channel_engine.md R326) -/
  | ack (ch : ChId)
  /-- the engine raises a trigger overrun (45_channel_engine.md R324) -/
  | overrun (ch : ChId)
  /-- the tick advances (10_state.md R50) -/
  | tick
  /-- the environment sets the inputs of a channel (10_state.md R52) -/
  | pins (ch : Nat) (req trig trigOverrun : Bool)
  deriving DecidableEq, Repr, Inhabited

/-- The CTR1 fields `XFORM` looks at (45_channel_engine.md R311). -/
structure XformArgs where
  srcWidth : Nat
  dstWidth : Nat
  padAlign : Nat
  srcByteXchg : Bool
  dstByteXchg : Bool
  dstHalfXchg : Bool
  deriving DecidableEq, Repr, Inhabited

/-- FREE VALUE. `XFORM` (45_channel_engine.md R311, 93_implementation_defined.md U1; log 10). -/
opaque Config.xform : XformArgs → List Byte → List Byte

/-- FREE VALUE. The byte a peripheral register answers at an address (20_memory.md R81; log 9): a fresh value for each
value of the counter. -/
opaque Config.deviceByte : Word → Nat → Byte

/-- FREE VALUE. A word of an expanded node whose masks lost `U_CLLR` (93_implementation_defined.md U8; log 27). -/
opaque Config.freeWord : Nat → Word

/-- FREE VALUE. Who moves when the schedule is empty (93_implementation_defined.md U18; log 1). -/
opaque Config.freeTurn : Nat → Turn

end Sys2Proof
end

