-- ==== Sys2Proof/WellFormed.lean ====
section
/-! DEFINITION. Well-formed instructions: the terms that an encoding stands for. -/

namespace Sys2Proof

/-- `UPD_ALL(Linear)`, bit i for bank index i (30_encoding.md R105). -/
def updAllLinear : BitVec 8 := 0b10011111

/-- The mask names a 2-D register (10_state.md R28). -/
def twoDBits (m : BitVec 8) : Bool := m.getLsbD 5 || m.getLsbD 6

/-- A well-formed instruction is one that its own encoding names: a configuration carries the repeat-block record
exactly for the 2-D kind (41_node_codec.md R172); a general link word is none of the canonical forms of
30_encoding.md R105; a node format carries an update mask of that format (R101 to R103); a control-word write names
different fields of its register, one field alone being `field_write` (40_register_file.md R142, R145); a write of CFCR
is `flag_clear`, not `reg_write` (R143, R146). The parameters say which registers a full 2-D node stores. -/
def Instr.wf (k : Cfg) : Instr → Bool
  | .fillNode kind c => c.rb.isSome == (kind == .twoDimensional)
  | .link _ upd la => !upd.getLsbD 7 && !(upd == 0 && la == 0)
  | .linkDynamic _ upd _ => 1#1 ++ upd != updAllLinear && 1#1 ++ upd != k.nodeRegs2d
  | .nLinS _ m => m == updAllLinear
  | .n2dS _ m => m == k.nodeRegs2d && m != updAllLinear
  | .nLinD _ m => m != updAllLinear && m != k.nodeRegs2d && !twoDBits m
  | .n2dD _ m => m != k.nodeRegs2d && twoDBits m
  | .regWrite _ r _ => r != .cfcr
  | .ctrlWordWrite _ r fs =>
      fs.length != 1 && fs.all (fun p => p.1.reg == r) && decide (fs.map Prod.fst).Nodup
  | .init _ | .deinit _ | .setConfigDirect _ _ | .getConfigDirect _ | .setConfigLinkedList _ _
  | .getConfigLinkedList _ | .setHwRequestMode _ _ | .resetHwRequestMode _ | .getHwRequestMode _ | .setPort _ _ _
  | .resetPort _ | .getPort _ | .setBurst _ _ _ | .resetBurst _ | .getBurst _ | .setTrigger _ _ | .resetTrigger _
  | .getTrigger _ | .setDataHandling _ _ | .resetDataHandling _ | .getDataHandling _ | .setRepeatBlock _ _
  | .resetRepeatBlock _ | .getRepeatBlock _ | .setSecurity _ _ | .resetSecurity _ | .getSecurity _
  | .registerCallback _ _ _ | .setUserData _ _ | .getUserData _ | .startDirect _ _ _ _ _ | .startLinkedList _ _ _
  | .suspend _ | .suspendIt _ | .resume _ | .abort _ | .abortIt _ | .pollForTransfer _ _ _ | .irqHandler _
  | .getState _ | .getLastError _ | .getRemainingBytes _ | .decodeNode _ | .convertToDynamic _ | .convertToStatic _
  | .updateDynamicQueueLinks _ | .queueInit _ _ | .queueInsert _ _ _ | .queueRemove _ _ | .queueReplace _ _ _
  | .queueSetCircular _ _ | .queueClearCircular _ | .startDirectSilent _ _ _ _ | .startDirectIt _ _ _ _
  | .startDirectItOpt _ _ _ _ _ | .startLinkedListSilent _ _ | .startLinkedListIt _ _ | .startLinkedListItOpt _ _ _
  | .linkEnd _ | .linkStaticLinear _ _ | .linkStaticTwoDimensional _ _ | .regRead _ _ | .fieldWrite _ _ _
  | .flagClear _ _ | .ieWrite _ _ | .ieSet _ _ | .hwEnable _ | .status _ | .linkLoad _ | .hwSuspendReq _
  | .hwResume _ | .hwReset _ | .eStart _ | .eData _ | .eBlockEnd _ | .eComplete _ | .eLink _ | .eRaiseDte _
  | .eRaiseUle _ | .eRaiseUse _ | .eRaiseTo _ | .eSuspAck _ | .aGrant _ => true

end Sys2Proof
end

