-- ==== Sys2Proof/Decode.lean ====
section
/-! DEFINITION. The layout of the fields (30_encoding.md R114, R115), the default parameters, field extraction and
insertion (R109), link words (R104, R105), the instruction decoder and, after it, the encoder. -/

namespace Sys2Proof

/-! ## The layout (30_encoding.md R114, R115; log 3) -/

/-- LAYOUT_U5 (30_encoding.md R115). PRESUMED (log 3); the two positions of SecAttr are a DESIGN CHOICE (log 33). -/
def Layout.u5 : Layout where
  srcWidth := 0
  srcInc := 3
  srcBurst := 4
  padAlign := 11
  srcByteXchg := 13
  srcPort := 14
  srcSec := 15
  dstWidth := 16
  dstInc := 19
  dstBurst := 20
  dstByteXchg := 26
  dstHalfXchg := 27
  dstPort := 30
  dstSec := 31
  reqSel := ⟨0, 7⟩
  swReq := 9
  dstReq := 10
  blockReq := 11
  trigMode := 14
  trigSel := ⟨16, 6⟩
  trigPol := 24
  eventMode := 30
  bndt := 0
  brc := 16
  srcDec := 28
  dstDec := 29
  blkSrcDec := 30
  blkDstDec := 31
  srcBurstOfs := 0
  dstBurstOfs := 16
  blkSrcOfs := 0
  blkDstOfs := 16
  uCllr := 16
  uCbr2 := 25
  uCtr3 := 26
  uCdar := 27
  uCsar := 28
  uCbr1 := 29
  uCtr2 := 30
  uCtr1 := 31
  en := 0
  reset := 1
  susp := 2
  tcie := 8
  htie := 9
  dteie := 10
  uleie := 11
  useie := 12
  suspie := 13
  toie := 14
  prio := ⟨22, 2⟩
  idle := 0
  tc := 8
  ht := 9
  dte := 10
  ule := 11
  use := 12
  suspf := 13
  tov := 14
  chSec := 0
  chPriv := 1

/-- The defaults of 00_scope.md R7 (log 4). -/
def Cfg.default : Cfg where
  layout := Layout.u5
  nodeRegs2d := 0b11111111
  build := .checked
  features := ⟨true, true, true, true⟩
  nprio := 4
  abortTimeout := 5
  timeoutStrict := true
  burstBeats := true
  strictPriority := false
  closingAll := true
  polarityChecked := false
  denials := []
  devices := []
  bodies := []

/-- The place of a field: its low bit position and its width (30_encoding.md R114; widths 10_state.md R22 to R36). -/
def Fld.place (f : Fld) (L : Layout) : Place :=
  match f with
  | .srcWidth => ⟨L.srcWidth, 2⟩
  | .srcInc => ⟨L.srcInc, 1⟩
  | .srcBurst => ⟨L.srcBurst, 6⟩
  | .padAlign => ⟨L.padAlign, 2⟩
  | .srcByteXchg => ⟨L.srcByteXchg, 1⟩
  | .srcPort => ⟨L.srcPort, 1⟩
  | .srcSec => ⟨L.srcSec, 1⟩
  | .dstWidth => ⟨L.dstWidth, 2⟩
  | .dstInc => ⟨L.dstInc, 1⟩
  | .dstBurst => ⟨L.dstBurst, 6⟩
  | .dstByteXchg => ⟨L.dstByteXchg, 1⟩
  | .dstHalfXchg => ⟨L.dstHalfXchg, 1⟩
  | .dstPort => ⟨L.dstPort, 1⟩
  | .dstSec => ⟨L.dstSec, 1⟩
  | .reqSel => L.reqSel
  | .swReq => ⟨L.swReq, 1⟩
  | .dstReq => ⟨L.dstReq, 1⟩
  | .blockReq => ⟨L.blockReq, 1⟩
  | .trigMode => ⟨L.trigMode, 2⟩
  | .trigSel => L.trigSel
  | .trigPol => ⟨L.trigPol, 2⟩
  | .eventMode => ⟨L.eventMode, 2⟩
  | .bndt => ⟨L.bndt, 16⟩
  | .brc => ⟨L.brc, 11⟩
  | .srcDec => ⟨L.srcDec, 1⟩
  | .dstDec => ⟨L.dstDec, 1⟩
  | .blkSrcDec => ⟨L.blkSrcDec, 1⟩
  | .blkDstDec => ⟨L.blkDstDec, 1⟩
  | .sa => ⟨0, 32⟩
  | .da => ⟨0, 32⟩
  | .srcBurstOfs => ⟨L.srcBurstOfs, 13⟩
  | .dstBurstOfs => ⟨L.dstBurstOfs, 13⟩
  | .blkSrcOfs => ⟨L.blkSrcOfs, 16⟩
  | .blkDstOfs => ⟨L.blkDstOfs, 16⟩
  | .la => ⟨2, 14⟩
  | .uCllr => ⟨L.uCllr, 1⟩
  | .uCbr2 => ⟨L.uCbr2, 1⟩
  | .uCtr3 => ⟨L.uCtr3, 1⟩
  | .uCdar => ⟨L.uCdar, 1⟩
  | .uCsar => ⟨L.uCsar, 1⟩
  | .uCbr1 => ⟨L.uCbr1, 1⟩
  | .uCtr2 => ⟨L.uCtr2, 1⟩
  | .uCtr1 => ⟨L.uCtr1, 1⟩
  | .lba => ⟨16, 16⟩
  | .en => ⟨L.en, 1⟩
  | .reset => ⟨L.reset, 1⟩
  | .susp => ⟨L.susp, 1⟩
  | .tcie => ⟨L.tcie, 1⟩
  | .htie => ⟨L.htie, 1⟩
  | .dteie => ⟨L.dteie, 1⟩
  | .uleie => ⟨L.uleie, 1⟩
  | .useie => ⟨L.useie, 1⟩
  | .suspie => ⟨L.suspie, 1⟩
  | .toie => ⟨L.toie, 1⟩
  | .prio => L.prio
  | .idle => ⟨L.idle, 1⟩
  | .tc => ⟨L.tc, 1⟩
  | .ht => ⟨L.ht, 1⟩
  | .dte => ⟨L.dte, 1⟩
  | .ule => ⟨L.ule, 1⟩
  | .use => ⟨L.use, 1⟩
  | .suspf => ⟨L.suspf, 1⟩
  | .tov => ⟨L.tov, 1⟩
  | .ctc => ⟨L.tc, 1⟩
  | .cht => ⟨L.ht, 1⟩
  | .cdte => ⟨L.dte, 1⟩
  | .cule => ⟨L.ule, 1⟩
  | .cuse => ⟨L.use, 1⟩
  | .csuspf => ⟨L.suspf, 1⟩
  | .ctov => ⟨L.tov, 1⟩
  | .chSec => ⟨L.chSec, 1⟩
  | .chPriv => ⟨L.chPriv, 1⟩

/-- Low bit position of a field. -/
def Fld.lo (f : Fld) (L : Layout) : Nat := (f.place L).lo

/-- Width of a field in bits. -/
def Fld.width (f : Fld) (L : Layout) : Nat := (f.place L).width

/-- `2^w - 1`, the field's value mask (30_encoding.md R109). -/
def Fld.ones (f : Fld) (L : Layout) : Word := BitVec.ofNat 32 (2 ^ f.width L - 1)

/-- The field's bits in its register. -/
def Fld.mask (f : Fld) (L : Layout) : Word := f.ones L <<< f.lo L

/-- The value of a field in a register word (30_encoding.md R109). -/
def Fld.get (f : Fld) (L : Layout) (w : Word) : Word := (w >>> f.lo L) &&& f.ones L

/-- A one-bit field as a Boolean. -/
def Fld.test (f : Fld) (L : Layout) (w : Word) : Bool := w.getLsbD (f.lo L)

/-- The word with one field replaced, every other bit kept; a value wider than the field is truncated
(40_register_file.md R142, 30_encoding.md R111). -/
def Fld.ins (f : Fld) (L : Layout) (v w : Word) : Word :=
  (w &&& ~~~(f.mask L)) ||| ((v <<< f.lo L) &&& f.mask L)

/-- Several fields replaced in one word (40_register_file.md R145). -/
def insFields (L : Layout) (fs : List (Fld × Word)) (w : Word) : Word :=
  fs.foldl (fun acc p => p.1.ins L p.2 acc) w

/-- `pack` of 30_encoding.md R109: the named fields, every other bit 0. -/
def pack (L : Layout) (fs : List (Fld × Word)) : Word := insFields L fs 0

/-- All the fields, for the check that the layout is well formed (30_encoding.md R114). -/
def Fld.all : List Fld :=
  [.srcWidth, .srcInc, .srcBurst, .padAlign, .srcByteXchg, .srcPort, .srcSec, .dstWidth, .dstInc, .dstBurst,
   .dstByteXchg, .dstHalfXchg, .dstPort, .dstSec, .reqSel, .swReq, .dstReq, .blockReq, .trigMode, .trigSel, .trigPol,
   .eventMode, .bndt, .brc, .srcDec, .dstDec, .blkSrcDec, .blkDstDec, .sa, .da, .srcBurstOfs, .dstBurstOfs,
   .blkSrcOfs, .blkDstOfs, .la, .uCllr, .uCbr2, .uCtr3, .uCdar, .uCsar, .uCbr1, .uCtr2, .uCtr1, .lba, .en, .reset,
   .susp, .tcie, .htie, .dteie, .uleie, .useie, .suspie, .toie, .prio, .idle, .tc, .ht, .dte, .ule, .use, .suspf,
   .tov, .ctc, .cht, .cdte, .cule, .cuse, .csuspf, .ctov, .chSec, .chPriv]

/-- Two different fields of one register share no bit. -/
def Fld.disjoint (f g : Fld) (L : Layout) : Bool :=
  decide (f.lo L + f.width L ≤ g.lo L) || decide (g.lo L + g.width L ≤ f.lo L)

/-- The update bits of CLLR in bank-index order (10_state.md R28). -/
def Fld.updates : List Fld := [.uCtr1, .uCtr2, .uCbr1, .uCsar, .uCdar, .uCtr3, .uCbr2, .uCllr]

/-- A well-formed layout (30_encoding.md R114; the update bits lie in bits 31..16, 10_state.md R28). -/
def Layout.wf (L : Layout) : Bool :=
  (Fld.all.all fun f => decide (f.lo L + f.width L ≤ 32))
    && (Fld.all.all fun f => Fld.all.all fun g => f == g || f.reg != g.reg || f.disjoint g L)
    && Fld.updates.all fun f => decide (16 ≤ f.lo L)

/-- Well-formed parameters: a well-formed layout, and 2-D nodes of 8 words, or of 7 with one register dropped that is
neither CSAR (42_queue.md R198) nor CLLR (R199; 90_conflicts.md C1; log 42). -/
def Cfg.wf (k : Cfg) : Bool :=
  k.layout.wf && [0, 1, 2, 4, 5, 6].any fun i => k.nodeRegs2d ||| (1#8 <<< i) == 0b11111111

/-! ## Flag words (10_state.md R34, R35; 40_register_file.md R146, R147) -/

/-- A flag set at the positions of CSR and CFCR (10_state.md R34, R35). -/
def FlagSet.toWord (s : FlagSet) (L : Layout) : Word :=
  pack L [(.tc, .ofBool s.tc), (.ht, .ofBool s.ht), (.dte, .ofBool s.dte), (.ule, .ofBool s.ule),
    (.use, .ofBool s.use), (.suspf, .ofBool s.suspf), (.tov, .ofBool s.tov)]

/-- The flags named by a word written to CFCR; bits outside the flags are ignored (10_state.md R35). -/
def FlagSet.ofWord (L : Layout) (w : Word) : FlagSet where
  ht := Fld.ht.test L w
  tc := Fld.tc.test L w
  suspf := Fld.suspf.test L w
  dte := Fld.dte.test L w
  use := Fld.use.test L w
  ule := Fld.ule.test L w
  tov := Fld.tov.test L w

/-- A set of enables at the positions of CCR (10_state.md R32). -/
def FlagSet.toEnables (s : FlagSet) (L : Layout) : Word :=
  pack L [(.tcie, .ofBool s.tc), (.htie, .ofBool s.ht), (.dteie, .ofBool s.dte), (.uleie, .ofBool s.ule),
    (.useie, .ofBool s.use), (.suspie, .ofBool s.suspf), (.toie, .ofBool s.tov)]

/-- The enables of a word of CCR (10_state.md R32). -/
def FlagSet.ofEnables (L : Layout) (w : Word) : FlagSet where
  ht := Fld.htie.test L w
  tc := Fld.tcie.test L w
  suspf := Fld.suspie.test L w
  dte := Fld.dteie.test L w
  use := Fld.useie.test L w
  ule := Fld.uleie.test L w
  tov := Fld.toie.test L w

/-- `ALL_FLAGS` (10_state.md R34) and `IE_ALL` (R32). -/
def allFlags : FlagSet := ⟨true, true, true, true, true, true, true⟩

/-! ## Link words (30_encoding.md R104, R105) -/

/-- The update mask of a link word, bit i for bank index i (10_state.md R21, R28). -/
def linkUpd (L : Layout) (w : Word) : BitVec 8 :=
  BitVec.ofBool (Fld.uCllr.test L w) ++ BitVec.ofBool (Fld.uCbr2.test L w) ++ BitVec.ofBool (Fld.uCtr3.test L w)
    ++ BitVec.ofBool (Fld.uCdar.test L w) ++ BitVec.ofBool (Fld.uCsar.test L w) ++ BitVec.ofBool (Fld.uCbr1.test L w)
    ++ BitVec.ofBool (Fld.uCtr2.test L w) ++ BitVec.ofBool (Fld.uCtr1.test L w)

/-- The update bits of a mask at their positions in a link word. -/
def updWord (L : Layout) (m : BitVec 8) : Word :=
  pack L [(.uCtr1, .ofBool (m.getLsbD 0)), (.uCtr2, .ofBool (m.getLsbD 1)), (.uCbr1, .ofBool (m.getLsbD 2)),
    (.uCsar, .ofBool (m.getLsbD 3)), (.uCdar, .ofBool (m.getLsbD 4)), (.uCtr3, .ofBool (m.getLsbD 5)),
    (.uCbr2, .ofBool (m.getLsbD 6)), (.uCllr, .ofBool (m.getLsbD 7))]

/-- `ADDR(a) = a & 0x0000FFFC` (30_encoding.md R105). -/
def linkAddr (a : Word) : Word := a &&& 0x0000FFFC

/-- A link word from an update mask and the next node's address (30_encoding.md R104). -/
def mkLink (L : Layout) (m : BitVec 8) (a : Word) : Word := updWord L m ||| linkAddr a

/-- `UPD_ALL(kind)` as a mask over bank indices (30_encoding.md R105): the registers that a full node stores. -/
def updAll (k : Cfg) : Kind → BitVec 8
  | .linear => updAllLinear
  | .twoDimensional => k.nodeRegs2d

/-- `LINK_STATIC(kind, next)` (30_encoding.md R105). -/
def linkStatic (k : Cfg) (kind : Kind) (a : Word) : Word := mkLink k.layout (updAll k kind) a

/-- `LINK_END` (30_encoding.md R105). -/
def linkEndWord : Word := 0

/-- The address bits 15..2 named by `la`, in place. -/
def laWord (la : BitVec 14) : Word := la.setWidth 32 <<< 2

/-- The words of the link-word instructions (30_encoding.md R104, R105). -/
def linkWordOf (L : Layout) (m : BitVec 8) (la : BitVec 14) : Word := updWord L m ||| laWord la

/-- The bits of a link word that belong to a field: the update bits and the address part (30_encoding.md R104). -/
def linkFieldBits (L : Layout) : Word := updWord L 0b11111111 ||| Fld.la.mask L

/-! ## Codes of the enumerations (41_node_codec.md R174; argument codes: log 20) -/

def Kind.code : Kind → Word | .linear => 0 | .twoDimensional => 1
def Kind.list : List Kind := [.linear, .twoDimensional]
def Direction.code : Direction → Word | .memToMem => 0 | .periphToMem => 1 | .memToPeriph => 2
def Direction.list : List Direction := [.memToMem, .periphToMem, .memToPeriph]
def Inc.code : Inc → Word | .fixed => 0 | .incremented => 1
def Inc.list : List Inc := [.fixed, .incremented]
/-- `log2bytes` (30_encoding.md R110): byte 0, halfword 1, word 2; the reserved code is 3 (R122). -/
def Width.code : Width → Word | .byte => 0 | .halfWord => 1 | .word => 2 | .reserved => 3
def Width.list : List Width := [.byte, .halfWord, .word, .reserved]
def HwMode.code : HwMode → Word | .burst => 0 | .block => 1
def HwMode.list : List HwMode := [.burst, .block]
def Port.code : Port → Word | .port0 => 0 | .port1 => 1
def Port.list : List Port := [.port0, .port1]
def Polarity.code : Polarity → Word | .none => 0 | .rising => 1 | .falling => 2 | .reserved => 3
def Polarity.list : List Polarity := [.none, .rising, .falling, .reserved]
def TrigMode.code : TrigMode → Word | .block => 0 | .repeatedBlock => 1 | .node => 2 | .singleBurst => 3
def TrigMode.list : List TrigMode := [.block, .repeatedBlock, .node, .singleBurst]
def Dir.code : Dir → Word | .add => 0 | .subtract => 1
def Dir.list : List Dir := [.add, .subtract]
def Slot.code : Slot → Word | .half => 0 | .complete => 1 | .abort => 2 | .suspend => 3 | .error => 4
def Slot.list : List Slot := [.half, .complete, .abort, .suspend, .error]
def IntSet.code : IntSet → Word | .silent => 0 | .none => 1 | .halfComplete => 2 | .timeoutOnly => 3 | .default => 4
def IntSet.list : List IntSet := [.silent, .none, .halfComplete, .timeoutOnly, .default]
def Level.code : Level → Word | .halfComplete => 0 | .fullComplete => 1
def Level.list : List Level := [.halfComplete, .fullComplete]
def boolList : List Bool := [false, true]

/-! ## The decoder -/

/-- Why an encoding is no instruction. For a command each of these is a precondition violation
(30_encoding.md R122, R123; log 21). -/
inductive DecodeError where
  /-- unassigned opcode (30_encoding.md R118, R123) -/
  | unassigned
  /-- bits 7..6 of the command word not zero (30_encoding.md R117) -/
  | reservedBits
  /-- a channel in a command that takes none (30_encoding.md R117) -/
  | channelField
  /-- fewer argument words than the signature has -/
  | missingArgument
  /-- an enumeration value outside its set (30_encoding.md R122) -/
  | badEnum
  /-- a bus access that is no micro-operation (log 30) -/
  | badBusAccess
  deriving DecidableEq, Repr, Inhabited

abbrev Decoded (α : Type) := Except DecodeError α

/-- An enumeration from its code. -/
def fromCode {α : Type} (l : List α) (w : Word) : Decoded α :=
  match l[w.toNat]? with
  | some a => .ok a
  | none => .error .badEnum

def parseDirectConfig : List Word → Decoded DirectConfig
  | rq :: dir :: si :: di :: sw :: dw :: pr :: _ => do
      return { request := rq, direction := ← fromCode Direction.list dir, srcInc := ← fromCode Inc.list si,
               dstInc := ← fromCode Inc.list di, srcWidth := ← fromCode Width.list sw,
               dstWidth := ← fromCode Width.list dw, priority := pr }
  | _ => .error .missingArgument

def parseRepeatBlock : List Word → Decoded RepeatBlock
  | bc :: sbo :: sbd :: dbo :: dbd :: sko :: skd :: dko :: dkd :: _ => do
      return { blockCount := bc, srcBurstOfs := sbo, srcBurstDir := ← fromCode Dir.list sbd, dstBurstOfs := dbo,
               dstBurstDir := ← fromCode Dir.list dbd, srcBlockOfs := sko, srcBlockDir := ← fromCode Dir.list skd,
               dstBlockOfs := dko, dstBlockDir := ← fromCode Dir.list dkd }
  | _ => .error .missingArgument

def parseTrigger (src pol mode : Word) : Decoded Trigger := do
  return { source := src, polarity := ← fromCode Polarity.list pol, mode := ← fromCode TrigMode.list mode }

def parseDataHandling (sbx dbx dhx pam : Word) : Decoded DataHandling := do
  return { srcByteXchg := ← fromCode boolList sbx, dstByteXchg := ← fromCode boolList dbx,
           dstHalfXchg := ← fromCode boolList dhx, padAlign := pam }

def parseNodeConfig (kind : Kind) : List Word → Decoded NodeConfig
  | rq :: dir :: si :: di :: sw :: dw :: hm :: sp :: dp :: sbl :: dbl :: ts :: tp :: tm :: sbx :: dbx :: dhx :: pam
      :: ss :: ds :: sa :: da :: sz :: rest => do
      let rb ← match kind with
        | .linear => Except.ok none
        | .twoDimensional => some <$> parseRepeatBlock rest
      return { request := rq, direction := ← fromCode Direction.list dir, srcInc := ← fromCode Inc.list si,
               dstInc := ← fromCode Inc.list di, srcWidth := ← fromCode Width.list sw,
               dstWidth := ← fromCode Width.list dw, hwMode := ← fromCode HwMode.list hm,
               srcPort := ← fromCode Port.list sp, dstPort := ← fromCode Port.list dp, srcBurstLen := sbl,
               dstBurstLen := dbl, trigger := ← parseTrigger ts tp tm, data := ← parseDataHandling sbx dbx dhx pam,
               srcSec := ← fromCode boolList ss, dstSec := ← fromCode boolList ds, srcAddr := sa, dstAddr := da,
               size := sz, rb := rb }
  | _ => .error .missingArgument

/-- The node given to `decode_node` (41_node_codec.md R177): its kind and its words in bank-index order. DESIGN CHOICE
(log 42): eight words for a 2-D node also where a full one stores seven. -/
def parseNode : List Word → Decoded Node
  | k :: ws => do
      match ← fromCode Kind.list k with
      | .linear =>
        match ws with
        | a :: b :: c :: d :: e :: f :: _ => return .linear a b c d e f
        | _ => .error .missingArgument
      | .twoDimensional =>
        match ws with
        | a :: b :: c :: d :: e :: f :: g :: h :: _ => return .twoDimensional a b c d e f g h
        | _ => .error .missingArgument
  | _ => .error .missingArgument

def with1 (args : List Word) (k : Word → Decoded Instr) : Decoded Instr :=
  match args with
  | a :: _ => k a
  | _ => .error .missingArgument

def with2 (args : List Word) (k : Word → Word → Decoded Instr) : Decoded Instr :=
  match args with
  | a :: b :: _ => k a b
  | _ => .error .missingArgument

def with3 (args : List Word) (k : Word → Word → Word → Decoded Instr) : Decoded Instr :=
  match args with
  | a :: b :: c :: _ => k a b c
  | _ => .error .missingArgument

def with4 (args : List Word) (k : Word → Word → Word → Word → Decoded Instr) : Decoded Instr :=
  match args with
  | a :: b :: c :: d :: _ => k a b c d
  | _ => .error .missingArgument

/-- The commands that carry a channel (30_encoding.md R118, opcodes 0x00 to 0x2B). -/
def decodeChannelCmd (op : Nat) (ch : ChId) (args : List Word) : Decoded Instr :=
  match op with
  | 0x00 => .ok (.init ch)
  | 0x01 => .ok (.deinit ch)
  | 0x02 => do return .setConfigDirect ch (← parseDirectConfig args)
  | 0x03 => .ok (.getConfigDirect ch)
  | 0x04 => with1 args fun p => .ok (.setConfigLinkedList ch p)
  | 0x05 => .ok (.getConfigLinkedList ch)
  | 0x08 => with1 args fun m => do return .setHwRequestMode ch (← fromCode HwMode.list m)
  | 0x09 => .ok (.resetHwRequestMode ch)
  | 0x0A => .ok (.getHwRequestMode ch)
  | 0x0B => with2 args fun s d => do return .setPort ch (← fromCode Port.list s) (← fromCode Port.list d)
  | 0x0C => .ok (.resetPort ch)
  | 0x0D => .ok (.getPort ch)
  | 0x0E => with2 args fun s d => .ok (.setBurst ch s d)
  | 0x0F => .ok (.resetBurst ch)
  | 0x10 => .ok (.getBurst ch)
  | 0x11 => with3 args fun s p m => do return .setTrigger ch (← parseTrigger s p m)
  | 0x12 => .ok (.resetTrigger ch)
  | 0x13 => .ok (.getTrigger ch)
  | 0x14 => with4 args fun a b c d => do return .setDataHandling ch (← parseDataHandling a b c d)
  | 0x15 => .ok (.resetDataHandling ch)
  | 0x16 => .ok (.getDataHandling ch)
  | 0x17 => do return .setRepeatBlock ch (← parseRepeatBlock args)
  | 0x18 => .ok (.resetRepeatBlock ch)
  | 0x19 => .ok (.getRepeatBlock ch)
  | 0x1A => with4 args fun a b c d => do
      return .setSecurity ch
        ⟨← fromCode boolList a, ← fromCode boolList b, ← fromCode boolList c, ← fromCode boolList d⟩
  | 0x1B => .ok (.resetSecurity ch)
  | 0x1C => .ok (.getSecurity ch)
  | 0x1D => with2 args fun s f => do return .registerCallback ch (← fromCode Slot.list s) f
  | 0x1E => with1 args fun p => .ok (.setUserData ch p)
  | 0x1F => .ok (.getUserData ch)
  | 0x20 => with4 args fun s d n i => do return .startDirect ch s d n (← fromCode IntSet.list i)
  | 0x21 => with2 args fun q i => do return .startLinkedList ch q (← fromCode IntSet.list i)
  | 0x22 => .ok (.suspend ch)
  | 0x23 => .ok (.suspendIt ch)
  | 0x24 => .ok (.resume ch)
  | 0x25 => .ok (.abort ch)
  | 0x26 => .ok (.abortIt ch)
  | 0x27 => with2 args fun l t => do return .pollForTransfer ch (← fromCode Level.list l) t
  | 0x28 => .ok (.irqHandler ch)
  | 0x29 => .ok (.getState ch)
  | 0x2A => .ok (.getLastError ch)
  | 0x2B => .ok (.getRemainingBytes ch)
  | _ => .error .unassigned

/-- The commands that take no channel (30_encoding.md R118, opcodes 0x30 to 0x3A). -/
def decodeQueueCmd (op : Nat) (args : List Word) : Decoded Instr :=
  match op with
  | 0x30 => match args with
      | k :: rest => do
          let kind ← fromCode Kind.list k
          return .fillNode kind (← parseNodeConfig kind rest)
      | _ => .error .missingArgument
  | 0x31 => do return .decodeNode (← parseNode args)
  | 0x32 => with1 args fun q => .ok (.convertToDynamic q)
  | 0x33 => with1 args fun q => .ok (.convertToStatic q)
  | 0x34 => with1 args fun q => .ok (.updateDynamicQueueLinks q)
  | 0x35 => with2 args fun q k => do return .queueInit q (← fromCode Kind.list k)
  | 0x36 => with3 args fun q p a => .ok (.queueInsert q p a)
  | 0x37 => with2 args fun q p => .ok (.queueRemove q p)
  | 0x38 => with3 args fun q p a => .ok (.queueReplace q p a)
  | 0x39 => with2 args fun q p => .ok (.queueSetCircular q p)
  | 0x3A => with1 args fun q => .ok (.queueClearCircular q)
  | _ => .error .unassigned

/-- A command word and its argument words (30_encoding.md R117); argument words past the signature are not read. -/
def decodeCmd (w : BitVec 16) (args : List Word) : Decoded Instr :=
  let op := (w.extractLsb' 0 6).toNat
  let ch : ChId := w.extractLsb' 8 8
  if w.extractLsb' 6 2 != 0 then .error .reservedBits
  else if op < 0x30 then decodeChannelCmd op ch args
  else if 0x3A < op then .error .unassigned
  else if ch != 0 then .error .channelField
  else decodeQueueCmd op args

/-- An access of the register bus (30_encoding.md R119; 40_register_file.md R141 to R156; log 30). -/
def decodeBus (L : Layout) (ch : ChId) (r : Reg) (op : BusOp) : Decoded Instr :=
  match op with
  | .read => .ok (.regRead ch r)
  | .status => if r = .csr then .ok (.status ch) else .error .badBusAccess
  | .write w => if r = .cfcr then .ok (.flagClear ch (FlagSet.ofWord L w)) else .ok (.regWrite ch r w)
  | .fields [(f, v)] => if f.reg = r then .ok (.fieldWrite ch f v) else .error .badBusAccess
  | .fields fs =>
      if (fs.all (fun p => p.1.reg == r) && decide (fs.map Prod.fst).Nodup) then .ok (.ctrlWordWrite ch r fs)
      else .error .badBusAccess
  | .bits mask w =>
      if r ≠ .ccr then .error .badBusAccess
      else if mask = Fld.en.mask L ∧ w = Fld.en.mask L then .ok (.hwEnable ch)
      else if mask = Fld.reset.mask L ∧ w = Fld.reset.mask L then .ok (.hwReset ch)
      else if mask = Fld.susp.mask L ∧ w = Fld.susp.mask L then .ok (.hwSuspendReq ch)
      else if mask = Fld.susp.mask L ∧ w = 0 then .ok (.hwResume ch)
      else if mask = allFlags.toEnables L then .ok (.ieWrite ch (FlagSet.ofEnables L w))
      else .error .badBusAccess
  | .orBits w => if r = .ccr then .ok (.ieSet ch (FlagSet.ofEnables L w)) else .error .badBusAccess

/-- A link word (30_encoding.md R104, R105): the canonical forms first, then any other. A word with a bit set that
belongs to no field is none of them; the host's write of it to CLLR is `reg_write`, which stores the reserved bits
(40_register_file.md R143, 92_eei_decisions.md D3). -/
def decodeLinkWord (k : Cfg) (ch : ChId) (w : Word) : Decoded Instr :=
  let la : BitVec 14 := w.extractLsb' 2 14
  let m := linkUpd k.layout w
  if w &&& ~~~(linkFieldBits k.layout) ≠ 0 then .ok (.regWrite ch .cllr w)
  else if w = linkEndWord then .ok (.linkEnd ch)
  else if m = updAll k .linear then .ok (.linkStaticLinear ch la)
  else if m = updAll k .twoDimensional then .ok (.linkStaticTwoDimensional ch la)
  else if m.getLsbD 7 then .ok (.linkDynamic ch (m.extractLsb' 0 7) la)
  else .ok (.link ch m la)

/-- The format of the next node, by the update mask in CLLR (30_encoding.md R107, R129). -/
def decodeNodeFormat (k : Cfg) (ch : ChId) (m : BitVec 8) : Instr :=
  if m = updAll k .linear then .nLinS ch m
  else if m = updAll k .twoDimensional then .n2dS ch m
  else if twoDBits m then .n2dD ch m
  else .nLinD ch m

/-- The decoder, total on every packet. -/
def decode (k : Cfg) : Packet → Decoded Instr
  | .cmd w args => decodeCmd w args
  | .bus ch r op => decodeBus k.layout ch r op
  | .linkWord ch w => decodeLinkWord k ch w
  | .node ch m => .ok (decodeNodeFormat k ch m)

/-! ## The encoder -/

/-- The command word (30_encoding.md R117). -/
def cmdWord (ch : ChId) (op : BitVec 6) : BitVec 16 := ch ++ (0#2 ++ op)

/-- A command packet. -/
def cmdPacket (ch : ChId) (op : BitVec 6) (args : List Word) : Packet := .cmd (cmdWord ch op) args

def DirectConfig.words (c : DirectConfig) : List Word :=
  [c.request, c.direction.code, c.srcInc.code, c.dstInc.code, c.srcWidth.code, c.dstWidth.code, c.priority]

def RepeatBlock.words (r : RepeatBlock) : List Word :=
  [r.blockCount, r.srcBurstOfs, r.srcBurstDir.code, r.dstBurstOfs, r.dstBurstDir.code, r.srcBlockOfs,
   r.srcBlockDir.code, r.dstBlockOfs, r.dstBlockDir.code]

def NodeConfig.words (c : NodeConfig) : List Word :=
  [c.request, c.direction.code, c.srcInc.code, c.dstInc.code, c.srcWidth.code, c.dstWidth.code, c.hwMode.code,
   c.srcPort.code, c.dstPort.code, c.srcBurstLen, c.dstBurstLen, c.trigger.source, c.trigger.polarity.code,
   c.trigger.mode.code, .ofBool c.data.srcByteXchg, .ofBool c.data.dstByteXchg, .ofBool c.data.dstHalfXchg,
   c.data.padAlign, .ofBool c.srcSec, .ofBool c.dstSec, c.srcAddr, c.dstAddr, c.size]
  ++ (match c.rb with | some r => r.words | none => [])

def Node.argWords : Node → List Word
  | .linear a b c d e f => [Kind.linear.code, a, b, c, d, e, f]
  | .twoDimensional a b c d e f g h => [Kind.twoDimensional.code, a, b, c, d, e, f, g, h]

/-- The packet of an instruction, from the encodings of 30_encoding.md; `none` for the rows the table gives no bits
(the engine's own steps and `link_load`). A pseudo-command has the packet of its expansion (R128). -/
def encode (k : Cfg) : Instr → Option Packet
  | .init ch => some (cmdPacket ch 0x00 [])
  | .deinit ch => some (cmdPacket ch 0x01 [])
  | .setConfigDirect ch c => some (cmdPacket ch 0x02 c.words)
  | .getConfigDirect ch => some (cmdPacket ch 0x03 [])
  | .setConfigLinkedList ch p => some (cmdPacket ch 0x04 [p])
  | .getConfigLinkedList ch => some (cmdPacket ch 0x05 [])
  | .setHwRequestMode ch m => some (cmdPacket ch 0x08 [m.code])
  | .resetHwRequestMode ch => some (cmdPacket ch 0x09 [])
  | .getHwRequestMode ch => some (cmdPacket ch 0x0A [])
  | .setPort ch s d => some (cmdPacket ch 0x0B [s.code, d.code])
  | .resetPort ch => some (cmdPacket ch 0x0C [])
  | .getPort ch => some (cmdPacket ch 0x0D [])
  | .setBurst ch s d => some (cmdPacket ch 0x0E [s, d])
  | .resetBurst ch => some (cmdPacket ch 0x0F [])
  | .getBurst ch => some (cmdPacket ch 0x10 [])
  | .setTrigger ch t => some (cmdPacket ch 0x11 [t.source, t.polarity.code, t.mode.code])
  | .resetTrigger ch => some (cmdPacket ch 0x12 [])
  | .getTrigger ch => some (cmdPacket ch 0x13 [])
  | .setDataHandling ch d =>
      some (cmdPacket ch 0x14 [.ofBool d.srcByteXchg, .ofBool d.dstByteXchg, .ofBool d.dstHalfXchg, d.padAlign])
  | .resetDataHandling ch => some (cmdPacket ch 0x15 [])
  | .getDataHandling ch => some (cmdPacket ch 0x16 [])
  | .setRepeatBlock ch r => some (cmdPacket ch 0x17 r.words)
  | .resetRepeatBlock ch => some (cmdPacket ch 0x18 [])
  | .getRepeatBlock ch => some (cmdPacket ch 0x19 [])
  | .setSecurity ch s =>
      some (cmdPacket ch 0x1A [.ofBool s.chSec, .ofBool s.chPriv, .ofBool s.srcSec, .ofBool s.dstSec])
  | .resetSecurity ch => some (cmdPacket ch 0x1B [])
  | .getSecurity ch => some (cmdPacket ch 0x1C [])
  | .registerCallback ch slot f => some (cmdPacket ch 0x1D [slot.code, f])
  | .setUserData ch p => some (cmdPacket ch 0x1E [p])
  | .getUserData ch => some (cmdPacket ch 0x1F [])
  | .startDirect ch s d n i => some (cmdPacket ch 0x20 [s, d, n, i.code])
  | .startLinkedList ch q i => some (cmdPacket ch 0x21 [q, i.code])
  | .suspend ch => some (cmdPacket ch 0x22 [])
  | .suspendIt ch => some (cmdPacket ch 0x23 [])
  | .resume ch => some (cmdPacket ch 0x24 [])
  | .abort ch => some (cmdPacket ch 0x25 [])
  | .abortIt ch => some (cmdPacket ch 0x26 [])
  | .pollForTransfer ch l t => some (cmdPacket ch 0x27 [l.code, t])
  | .irqHandler ch => some (cmdPacket ch 0x28 [])
  | .getState ch => some (cmdPacket ch 0x29 [])
  | .getLastError ch => some (cmdPacket ch 0x2A [])
  | .getRemainingBytes ch => some (cmdPacket ch 0x2B [])
  | .fillNode kind c => some (cmdPacket 0 0x30 (kind.code :: c.words))
  | .decodeNode n => some (cmdPacket 0 0x31 n.argWords)
  | .convertToDynamic q => some (cmdPacket 0 0x32 [q])
  | .convertToStatic q => some (cmdPacket 0 0x33 [q])
  | .updateDynamicQueueLinks q => some (cmdPacket 0 0x34 [q])
  | .queueInit q kind => some (cmdPacket 0 0x35 [q, kind.code])
  | .queueInsert q p a => some (cmdPacket 0 0x36 [q, p, a])
  | .queueRemove q p => some (cmdPacket 0 0x37 [q, p])
  | .queueReplace q p a => some (cmdPacket 0 0x38 [q, p, a])
  | .queueSetCircular q p => some (cmdPacket 0 0x39 [q, p])
  | .queueClearCircular q => some (cmdPacket 0 0x3A [q])
  | .startDirectSilent ch s d n => some (cmdPacket ch 0x20 [s, d, n, IntSet.silent.code])
  | .startDirectIt ch s d n => some (cmdPacket ch 0x20 [s, d, n, IntSet.default.code])
  | .startDirectItOpt ch s d n i => some (cmdPacket ch 0x20 [s, d, n, i.code])
  | .startLinkedListSilent ch q => some (cmdPacket ch 0x21 [q, IntSet.silent.code])
  | .startLinkedListIt ch q => some (cmdPacket ch 0x21 [q, IntSet.default.code])
  | .startLinkedListItOpt ch q i => some (cmdPacket ch 0x21 [q, i.code])
  | .link ch upd la => some (.linkWord ch (linkWordOf k.layout upd la))
  | .linkEnd ch => some (.linkWord ch linkEndWord)
  | .linkStaticLinear ch la => some (.linkWord ch (linkWordOf k.layout (updAll k .linear) la))
  | .linkStaticTwoDimensional ch la => some (.linkWord ch (linkWordOf k.layout (updAll k .twoDimensional) la))
  | .linkDynamic ch upd la => some (.linkWord ch (linkWordOf k.layout (1#1 ++ upd) la))
  | .nLinS ch m => some (.node ch m)
  | .n2dS ch m => some (.node ch m)
  | .nLinD ch m => some (.node ch m)
  | .n2dD ch m => some (.node ch m)
  | .regRead ch r => some (.bus ch r .read)
  | .fieldWrite ch f v => some (.bus ch f.reg (.fields [(f, v)]))
  | .regWrite ch r w => some (.bus ch r (.write w))
  | .ctrlWordWrite ch r fs => some (.bus ch r (.fields fs))
  | .flagClear ch fs => some (.bus ch .cfcr (.write (fs.toWord k.layout)))
  | .ieWrite ch fs => some (.bus ch .ccr (.bits (allFlags.toEnables k.layout) (fs.toEnables k.layout)))
  | .ieSet ch fs => some (.bus ch .ccr (.orBits (fs.toEnables k.layout)))
  | .hwEnable ch => some (.bus ch .ccr (.bits (Fld.en.mask k.layout) (Fld.en.mask k.layout)))
  | .status ch => some (.bus ch .csr .status)
  | .linkLoad _ => none
  | .hwSuspendReq ch => some (.bus ch .ccr (.bits (Fld.susp.mask k.layout) (Fld.susp.mask k.layout)))
  | .hwResume ch => some (.bus ch .ccr (.bits (Fld.susp.mask k.layout) 0))
  | .hwReset ch => some (.bus ch .ccr (.bits (Fld.reset.mask k.layout) (Fld.reset.mask k.layout)))
  | .eStart _ | .eData _ | .eBlockEnd _ | .eComplete _ | .eLink _ | .eRaiseDte _ | .eRaiseUle _ | .eRaiseUse _
  | .eRaiseTo _ | .eSuspAck _ | .aGrant _ => none

/-! ## Words of the opcode table (log 31) -/

/-- Argument words of the longest command: `fill_node` of a 2-D node. -/
def longestArgs : Nat := 33

/-- The channel a bare link word is read for: one with a 2-D update bit stands for the first 2-D capable channel of the
default configuration, any other for channel 0 (log 31). -/
def tableChannel (w : Word) : ChId := if twoDBits (linkUpd Layout.u5 w) then 12 else 0

/-- The control fields of CCR whose setting alone is a micro-operation: `hw_enable`, `hw_reset`, `hw_suspend_req`
(40_register_file.md R148, R156, R152). -/
def tableControls : List Fld := [.en, .reset, .susp]

/-- The packet that `nbits` bits of the table stand for (log 31): up to 16 bits, and anything that is not 32 bits, a
command word with argument words behind it; 32 bits, a write of a control field of CCR when they are that bit alone, a
write of CFCR when they are flag positions only, a link word when no reserved bit is set, else an update mask in CLLR
that selects a node format. The table's positions are those of LAYOUT_U5. -/
def tablePacket (nbits w : Nat) : Packet :=
  if nbits = 32 then
    let v : Word := BitVec.ofNat 32 w
    if (tableControls.any fun f => v == f.mask Layout.u5) then .bus 0 .ccr (.bits v v)
    else if v ≠ 0 ∧ v &&& ~~~(allFlags.toWord Layout.u5) = 0 then .bus 0 .cfcr (.write v)
    else if v &&& ~~~(linkFieldBits Layout.u5) = 0 then .linkWord (tableChannel v) v
    else .node (tableChannel v) (linkUpd Layout.u5 v)
  else
    .cmd (BitVec.ofNat 16 w) ((List.range longestArgs).map fun k => BitVec.ofNat 32 (w >>> (16 + 32 * k)))

/-- The instruction the decoder reads from an instruction whose bits are `w`, numbered as spec/opcode_table.json
numbers them. -/
def decodeTableWord (nbits w : Nat) : Option Instr :=
  match decode Cfg.default (tablePacket nbits w) with
  | .ok i => some i
  | .error _ => none

end Sys2Proof
end

