-- ==== Sys2Proof/Machine/State.lean ====
section
/-! DEFINITION. The state of the machine as plain data (10_state.md), the faults and refusals, and the state after
power-on reset (10_state.md R56). -/

namespace Sys2Proof.Machine

/-! ## Registers of a channel -/

/-- CCR without its write-only RESET bit; reserved bits read 0 (10_state.md R32). -/
structure Ccr where
  en : Bool
  susp : Bool
  ie : FlagSet
  /-- the value of the field `PRIO`, whose width is `LAYOUT`'s -/
  prio : Word
  deriving DecidableEq, Repr, Inhabited

/-- CSR (10_state.md R34). -/
structure Csr where
  idle : Bool
  flags : FlagSet
  deriving DecidableEq, Repr, Inhabited

/-- The security attributes of a channel (10_state.md R36). -/
structure SecAttr where
  chSec : Bool
  chPriv : Bool
  deriving DecidableEq, Repr, Inhabited

/-- Engine hidden state (10_state.md R51, 45_channel_engine.md R302); `tcDue` belongs to EVENT_MODE 2 (R318, log 16). -/
structure Hidden where
  blkReload : BitVec 16
  brcReload : BitVec 11
  unitTotal : Nat
  unitMoved : Nat
  sbLeft : Nat
  dbLeft : Nat
  paused : Bool
  linkPending : Bool
  tcDue : Bool
  deriving DecidableEq, Repr, Inhabited

/-- Inputs of a channel (10_state.md R52, 45_channel_engine.md R324). -/
structure Pins where
  req : Bool
  trig : Bool
  trigOverrun : Bool
  deriving DecidableEq, Repr, Inhabited

/-! ## The handle (10_state.md section 5) -/

/-- `H.State` (10_state.md R37). -/
inductive Life where
  | reset | init | idle | active | suspend | abort
  deriving DecidableEq, Repr, Inhabited

/-- `H.Mode` (10_state.md R38). -/
inductive Mode where
  | direct | linkedListLinear | linkedListCircular
  deriving DecidableEq, Repr, Inhabited

/-- The five callback slots (10_state.md R42); an identifier, 0 the no-op default. -/
structure Callbacks where
  half : Word
  complete : Word
  abort : Word
  suspend : Word
  error : Word
  deriving DecidableEq, Repr, Inhabited

/-- The channel handle (10_state.md R37 to R43). -/
structure Handle where
  state : Life
  mode : Mode
  head : Option Word
  lastError : BitVec 4
  userData : Word
  cb : Callbacks
  blockSize : Word
  deriving DecidableEq, Repr, Inhabited

/-- One channel (10_state.md R20). -/
structure Channel where
  /-- `TWO_D_CAPABLE(ch)`: fixed -/
  twoD : Bool
  ctr1 : Word
  ctr2 : Word
  cbr1 : Word
  csar : Word
  cdar : Word
  ctr3 : Word
  cbr2 : Word
  cllr : Word
  /-- `CLBAR.LBA` -/
  lba : BitVec 16
  ccr : Ccr
  csr : Csr
  secAttr : SecAttr
  hid : Hidden
  pins : Pins
  h : Handle
  deriving DecidableEq, Repr, Inhabited

/-! ## Queues (10_state.md R45, R46) -/

/-- A node of a queue: its address and the registers it stores, bit i for bank index i (30_encoding.md R103). -/
structure QNode where
  addr : Word
  present : BitVec 8
  deriving DecidableEq, Repr, Inhabited

/-- Queue format (10_state.md R45). -/
inductive Format where
  | static | dynamic
  deriving DecidableEq, Repr, Inhabited

/-- The queue record (10_state.md R45); `head` is the first node's address, `node_count` the length of `nodes`. -/
structure Queue where
  kind : Kind
  format : Format
  nodes : List QNode
  /-- `first_circular_node` -/
  fc : Option Word
  deriving DecidableEq, Repr, Inhabited

/-! ## Replies and events -/

/-- The five results (00_scope.md R10). -/
inductive Result where
  | ok | error | busy | timeout | invalidParameter
  deriving DecidableEq, Repr, Inhabited

/-- What a getter or a codec command returns besides its result. -/
inductive Value where
  | none
  | word (w : Word)
  | directConfig (c : DirectConfig)
  | priority (p : Word)
  | hwMode (m : HwMode)
  | port (src dst : Port)
  | burst (srcLen dstLen : Word)
  | trigger (t : Trigger)
  | dataHandling (d : DataHandling)
  | repeatBlock (rb : RepeatBlock)
  | security (s : Security)
  | life (s : Life)
  | lastError (e : BitVec 4)
  | node (n : Node)
  | nodeConfig (c : NodeConfig) (kind : Kind)
  deriving DecidableEq, Repr, Inhabited

/-- What a command returns to its caller (00_scope.md R10). -/
structure Reply where
  result : Result
  value : Value
  deriving DecidableEq, Repr, Inhabited

/-- The event history: callbacks (60_exceptions.md R372) and data accesses (20_memory.md R81). -/
inductive Event where
  | callback (slot : Slot) (ch : Nat)
  | read (ch : Nat) (addr : Word) (bytes : List Byte)
  | write (ch : Nat) (addr : Word) (bytes : List Byte)
  deriving DecidableEq, Repr, Inhabited

/-! ## Host operations: the single accesses a host command is made of (20_memory.md R86, 40_register_file.md R154) -/

/-- What a register getter reads and returns (43_channel_config.md R228). -/
inductive Getter where
  | reg | directConfig | priority | hwMode | port | burst | trigger | dataHandling | repeatBlock | security | remaining
  deriving DecidableEq, Repr, Inhabited

/-- What a handle getter returns (43_channel_config.md R252 to R254). -/
inductive HandleGetter where
  | userData | state | lastError
  deriving DecidableEq, Repr, Inhabited

/-- The blocking waits (44_transfer_engine.md R267); an abort may be the one inside a poll (R279). -/
inductive WaitKind where
  | suspend
  | abort (inPoll : Bool)
  | poll (level : Level)
  deriving DecidableEq, Repr, Inhabited

/-- Progress of a blocking wait (10_state.md R54): channel, command, start tick `t0`, budget `T`. -/
structure Wait where
  ch : Nat
  kind : WaitKind
  t0 : Word
  budget : Word
  deriving DecidableEq, Repr, Inhabited

/-- Progress of `convert_to_static` (42_queue.md R203): the nodes left, the conversion context (10_state.md R55), the
mask of the node being read and the images of the nodes done. An image is the eight words of a node in bank-index
order. -/
structure Expand where
  left : List Word
  ctx : List Word
  mask : BitVec 8
  done : List (List Word)
  deriving DecidableEq, Repr, Inhabited

/-- Which conversion a run of memory reads belongs to (42_queue.md R197, R203). -/
inductive ReadCont where
  | toDynamic (q : Word)
  | toStaticHead (q : Word)
  | toStatic (q : Word) (x : Expand)
  deriving DecidableEq, Repr, Inhabited

/-- A precondition over one handle field (00_scope.md R9, R11). -/
inductive HandleTest where
  | state (allowed : List Life)
  | mode (allowed : List Mode)
  deriving DecidableEq, Repr, Inhabited

/-- One host operation: one register access, memory access or handle-field access (20_memory.md R86), or a decision
the command takes on what it has read. -/
inductive HostOp where
  /-- `return` (00_scope.md R9) -/
  | ret (r : Reply)
  /-- `precondition` over one read of a handle field; where it fails the command ends, its `left` operations behind this
  one dropped (00_scope.md R11) -/
  | require (ch : Nat) (t : HandleTest) (left : Nat)
  /-- `if H.State = Active: return Busy` of a start, its `left` operations behind this one dropped
  (44_transfer_engine.md R262, R265, R287) -/
  | busyTest (ch : Nat) (left : Nat)
  /-- the handle says `Idle` over a running channel (93_implementation_defined.md U5); no access of the machine -/
  | idleOverRunning (ch : Nat)
  | regWrite (ch : Nat) (r : Reg) (w : Word)
  /-- the read phase of `field_write` and `ctrl_word_write` (40_register_file.md R142, R145) -/
  | rmw (ch : Nat) (r : Reg) (fs : List (Fld × Word))
  /-- a getter's reads, one register at a time -/
  | collect (ch : Nat) (left : List Reg) (got : List Word) (g : Getter)
  | answer (ch : Nat) (g : HandleGetter)
  | flagClear (ch : Nat) (fs : FlagSet)
  | ieWrite (ch : Nat) (fs : FlagSet)
  | ieSet (ch : Nat) (fs : FlagSet)
  | setPrio (ch : Nat) (p : Word)
  /-- one atomic write of named fields of CCR (40_register_file.md R142; log 17) -/
  | ccrFields (ch : Nat) (fs : List (Fld × Word))
  | enable (ch : Nat)
  | suspReq (ch : Nat)
  | resume (ch : Nat)
  | chReset (ch : Nat)
  | setState (ch : Nat) (s : Life)
  | setMode (ch : Nat) (m : Mode)
  | setHead (ch : Nat) (a : Option Word)
  | setError (ch : Nat) (e : BitVec 4)
  /-- the read phase of `H.LastError <- H.LastError | e` -/
  | orError (ch : Nat) (e : BitVec 4)
  | setUserData (ch : Nat) (p : Word)
  | setCallback (ch : Nat) (slot : Slot) (f : Word)
  | setBlockSize (ch : Nat) (n : Word)
  /-- `t0 <- Tick` (44_transfer_engine.md R267) -/
  | waitStart (ch : Nat) (k : WaitKind) (budget : Word)
  /-- `s <- reg_read(ch, CSR)` of the wait loop -/
  | waitRead (w : Wait)
  /-- the budget test of the wait loop, with the status it read -/
  | waitTick (w : Wait) (s : Csr)
  /-- the precondition of the abort inside a poll (44_transfer_engine.md R279) -/
  | abortGuard (ch : Nat)
  /-- the idle test of `abort` (44_transfer_engine.md R273) -/
  | abortIdle (ch : Nat) (inPoll : Bool)
  /-- the idle test of `abort_it` (44_transfer_engine.md R275) -/
  | abortItIdle (ch : Nat)
  /-- the handler's snapshot of CSR, then of CCR (60_exceptions.md R361) -/
  | snapCsr (ch : Nat)
  | snapCcr (ch : Nat)
  /-- the idle test of the full-complete branch (60_exceptions.md R364) -/
  | idleTest (ch : Nat)
  /-- the state test of the suspended branch (60_exceptions.md R365) -/
  | suspendedTest (ch : Nat)
  /-- `emit` (60_exceptions.md R372) -/
  | emit (ch : Nat) (slot : Slot)
  /-- a command issued by a callback body (93_implementation_defined.md U14) -/
  | call (p : Packet)
  /-- the handler finishes (60_exceptions.md R358) -/
  | isrReturn
  /-- one word store to node memory -/
  | memWrite (a w : Word)
  /-- the kind tag of a stored node (10_state.md R46) -/
  | tag (a : Word) (k : Kind)
  /-- word reads of node memory, one at a time -/
  | readWords (left : List Word) (got : List Word) (k : ReadCont)
  /-- one node of `convert_to_dynamic`: the context, the nodes left with their full images, the nodes done (R197) -/
  | compact (q : Word) (ctx : List Word) (left : List (Word × List Word)) (done : List QNode)
  | setQueue (q : Word) (v : Queue)
  /-- the second pass (42_queue.md R201) -/
  | updateLinks (q : Word)
  deriving DecidableEq, Repr, Inhabited

/-- HOST-APP (10_state.md R54): the host operations left of its command in progress, and its last reply. -/
structure App where
  todo : List HostOp
  reply : Option Reply
  deriving DecidableEq, Repr, Inhabited

/-- A running handler (10_state.md R54): its channel, whether `irq_handler` has begun, the snapshot, what is left. -/
structure Isr where
  ch : Nat
  begun : Bool
  snapCsr : Option Csr
  snapCcr : Option Ccr
  todo : List HostOp
  deriving DecidableEq, Repr, Inhabited

/-! ## The state -/

/-- Memory as (address, byte) pairs in canonical form (Machine/Ops.lean). -/
abbrev Memory := List Host.Cell

structure State where
  /-- parameters, changed by no step (00_scope.md R7; log 4) -/
  cfg : Cfg
  /-- the channels; `NCH` is their number (10_state.md R20) -/
  chans : List Channel
  /-- memory (20_memory.md R70) -/
  mem : Memory
  /-- `Tick` (10_state.md R50) -/
  tick : Word
  /-- queue records by name (10_state.md R45; log 24) -/
  queues : List (Word × Queue)
  /-- kind tags of stored nodes (10_state.md R46) -/
  nodeKinds : List (Word × Kind)
  app : App
  isr : Option Isr
  /-- last reply to a command issued by a callback -/
  irqReply : Option Reply
  /-- event history, oldest first (20_memory.md R81, 60_exceptions.md R372; log 39) -/
  trace : List Event
  /-- the model's own: the schedule (log 1) -/
  agenda : List Turn
  /-- the model's own: host operations the host may still take in this turn (log 2) -/
  quantum : Nat
  /-- the model's own: counter of free values (log 38) -/
  fresh : Nat
  deriving DecidableEq, Repr, Inhabited

/-- Faults of the model. -/
inductive Fault where
  /-- Raised by a precondition violation in a debug build, the "fatal assertion" of 00_scope.md R11. Safe: the run
  stops where the source's stops. -/
  | precondition
  deriving DecidableEq, Repr, Inhabited

/-- Refusals of the model. -/
inductive Refusal where
  /-- Raised by an arm of `exec` whose instruction has no meaning yet. Safe. -/
  | notModelled (mnemonic : String)
  /-- Raised by a precondition violation with `BUILD = Unchecked`, for which the document gives no behaviour
  (00_scope.md R11). Safe. -/
  | uncheckedViolation
  /-- Raised by a host write to a link register or CLBAR of an enabled channel (93_implementation_defined.md U3,
  70_reset_and_hazards.md R411). Safe. -/
  | linkWriteWhileEnabled
  /-- Raised by a start, a setter of 43_channel_config.md R223 or a `set_config_*` whose handle says `Idle` while the
  channel is enabled (93_implementation_defined.md U5: "refuse"). Safe. -/
  | idleOverRunning
  deriving DecidableEq, Repr, Inhabited

/-! ## Reset (10_state.md R56, 70_reset_and_hazards.md R400) -/

def FlagSet.empty : FlagSet := ⟨false, false, false, false, false, false, false⟩

def Hidden.zero : Hidden := ⟨0, 0, 0, 0, 0, 0, false, false, false⟩

def Callbacks.noop : Callbacks := ⟨0, 0, 0, 0, 0⟩

/-- The handle at power-on (10_state.md R56). -/
def Handle.powerOn : Handle := ⟨.reset, .direct, none, 0, 0, Callbacks.noop, 0⟩

/-- A channel at power-on (10_state.md R56). The inputs are unspecified there: DESIGN CHOICE (log 6). -/
def Channel.powerOn (twoD : Bool) : Channel where
  twoD := twoD
  ctr1 := 0
  ctr2 := 0
  cbr1 := 0
  csar := 0
  cdar := 0
  ctr3 := 0
  cbr2 := 0
  cllr := 0
  lba := 0
  ccr := ⟨false, false, FlagSet.empty, 0⟩
  csr := ⟨true, FlagSet.empty⟩
  secAttr := ⟨false, false⟩
  hid := Hidden.zero
  pins := ⟨true, true, false⟩
  h := Handle.powerOn

/-- The machine right after power-on, for given parameters and channels (10_state.md R56). DESIGN CHOICE: the tick is
0 (log 5), no byte of memory is listed (log 7), there is no queue record and no node kind tag, which
70_reset_and_hazards.md R401 leaves unspecified (log 43), the quantum is 4096 (log 2). -/
def State.powerOn (cfg : Cfg) (twoD : List Bool) : State where
  cfg := cfg
  chans := twoD.map Channel.powerOn
  mem := []
  tick := 0
  queues := []
  nodeKinds := []
  app := ⟨[], none⟩
  isr := none
  irqReply := none
  trace := []
  agenda := []
  quantum := 4096
  fresh := 0

/-- PRESUMED (log 4): 16 channels, the last four 2-D capable, as on the family's device. -/
def defaultChannels : List Bool := List.replicate 12 false ++ List.replicate 4 true

/-- The machine right after reset. -/
def State.reset : State := State.powerOn Cfg.default defaultChannels

end Sys2Proof.Machine
end

