-- ==== Sys2Proof/Machine/Flags.lean ====
section
/-! DEFINITION. Flag and enable computations (10_state.md R32 to R35, 44_transfer_engine.md R261, 60_exceptions.md
R352, R361) and the word views of CCR, CSR, SecAttr and CLBAR (30_encoding.md R114). -/

namespace Sys2Proof.Machine

/-! ## Sets of flags -/

def flagsMap2 (f : Bool → Bool → Bool) (a b : FlagSet) : FlagSet :=
  ⟨f a.ht b.ht, f a.tc b.tc, f a.suspf b.suspf, f a.dte b.dte, f a.use b.use, f a.ule b.ule, f a.tov b.tov⟩

def flagsOr (a b : FlagSet) : FlagSet := flagsMap2 (fun x y => x || y) a b

def flagsAnd (a b : FlagSet) : FlagSet := flagsMap2 (fun x y => x && y) a b

/-- The flags of `a` that are not in `b`. -/
def flagsDiff (a b : FlagSet) : FlagSet := flagsMap2 (fun x y => x && !y) a b

def flagsAny (a : FlagSet) : Bool := a.ht || a.tc || a.suspf || a.dte || a.use || a.ule || a.tov

/-- `ERR_FLAGS` (10_state.md R34). -/
def errFlags : FlagSet := ⟨false, false, false, true, true, true, true⟩

def flagHT : FlagSet := { FlagSet.empty with ht := true }
def flagTC : FlagSet := { FlagSet.empty with tc := true }
def flagSUSPF : FlagSet := { FlagSet.empty with suspf := true }
def flagDTE : FlagSet := { FlagSet.empty with dte := true }
def flagUSE : FlagSet := { FlagSet.empty with use := true }
def flagULE : FlagSet := { FlagSet.empty with ule := true }
def flagTO : FlagSet := { FlagSet.empty with tov := true }

/-- The flags of a status that are error flags (44_transfer_engine.md R277). -/
def errorsOf (f : FlagSet) : FlagSet := flagsAnd f errFlags

/-- `errbits`: DTE 0x1, ULE 0x2, USE 0x4, TO 0x8 (10_state.md R40). -/
def errbits (f : FlagSet) : BitVec 4 :=
  BitVec.ofBool f.tov ++ BitVec.ofBool f.use ++ BitVec.ofBool f.ule ++ BitVec.ofBool f.dte

/-! ## The interrupt line and the handler's acting flags -/

/-- The acting flags of a status and a control register: a flag acts only if its enable is on
(60_exceptions.md R360, R361). -/
def actingFlags (sr : Csr) (cr : Ccr) : FlagSet := flagsAnd sr.flags cr.ie

/-- `irq(ch)`: some flag is set with its enable on (60_exceptions.md R352). -/
def irqLine (sr : Csr) (cr : Ccr) : Bool := flagsAny (actingFlags sr cr)

/-- `IE(s)`, the interrupt subset of a start (44_transfer_engine.md R261). -/
def ieOf : IntSet → FlagSet
  | .silent => FlagSet.empty
  | .none => ⟨false, true, false, true, true, true, false⟩
  | .halfComplete => ⟨true, true, false, true, true, true, false⟩
  | .timeoutOnly => ⟨false, true, false, true, true, true, true⟩
  | .default => ⟨true, true, false, true, true, true, true⟩

/-! ## Word views -/

/-- CCR as a word: RESET and reserved bits read 0 (10_state.md R32, 40_register_file.md R141). -/
def ccrWord (L : Layout) (c : Ccr) : Word :=
  pack L [(.en, .ofBool c.en), (.susp, .ofBool c.susp), (.tcie, .ofBool c.ie.tc), (.htie, .ofBool c.ie.ht),
    (.dteie, .ofBool c.ie.dte), (.uleie, .ofBool c.ie.ule), (.useie, .ofBool c.ie.use),
    (.suspie, .ofBool c.ie.suspf), (.toie, .ofBool c.ie.tov), (.prio, c.prio)]

/-- CSR as a word; reserved bits read 0 (10_state.md R34). -/
def csrWord (L : Layout) (c : Csr) : Word :=
  pack L [(.idle, .ofBool c.idle), (.tc, .ofBool c.flags.tc), (.ht, .ofBool c.flags.ht), (.dte, .ofBool c.flags.dte),
    (.ule, .ofBool c.flags.ule), (.use, .ofBool c.flags.use), (.suspf, .ofBool c.flags.suspf),
    (.tov, .ofBool c.flags.tov)]

/-- SecAttr as a word (10_state.md R36; positions log 33). -/
def secAttrWord (L : Layout) (a : SecAttr) : Word := pack L [(.chSec, .ofBool a.chSec), (.chPriv, .ofBool a.chPriv)]

/-- SecAttr from a word written to it (40_register_file.md R155). -/
def secAttrOf (L : Layout) (w : Word) : SecAttr := ⟨Fld.chSec.test L w, Fld.chPriv.test L w⟩

/-- CLBAR as a word: bits 15..0 read 0 (10_state.md R31). -/
def lbaWord (l : BitVec 16) : Word := l ++ (0 : BitVec 16)

end Sys2Proof.Machine
end

