-- ==== Sys2Proof/Machine/Operands.lean ====
section
/-! DEFINITION. Operand forms: legal sets of operands (41_node_codec.md R170 to R172, 43_channel_config.md,
44_transfer_engine.md) and of node addresses (42_queue.md R191). -/

namespace Sys2Proof.Machine

/-- A value that fits a field (41_node_codec.md R170). -/
def fitsField (L : Layout) (f : Fld) (v : Word) : Bool := decide (v.toNat < 2 ^ f.width L)

/-- `size` in 1..65535 (00_scope.md R6). -/
def sizeLegal (n : Word) : Bool := decide (1 ≤ n.toNat) && decide (n.toNat ≤ 65535)

/-- A multiple of 4 (20_memory.md R73, R74). -/
def aligned4 (a : Word) : Bool := a.extractLsb' 0 2 == 0

/-- A burst length in 1..64 (00_scope.md R6). -/
def burstLegal (n : Word) : Bool := decide (1 ≤ n.toNat) && decide (n.toNat ≤ 64)

/-- A block count in 1..2048 (00_scope.md R6). -/
def blockCountLegal (n : Word) : Bool := decide (1 ≤ n.toNat) && decide (n.toNat ≤ 2048)

/-- The reserved width is outside the enumeration (30_encoding.md R122). -/
def widthLegal (w : Width) : Bool := w != .reserved

/-- The reserved polarity is outside the enumeration (30_encoding.md R122). -/
def polarityLegal (p : Polarity) : Bool := p != .reserved

/-- A priority class below `NPRIO` that the field `CCR.PRIO` can hold (43_channel_config.md R224). -/
def priorityLegal (k : Cfg) (p : Word) : Bool := decide (p.toNat < k.nprio) && fitsField k.layout .prio p

def triggerLegal (L : Layout) (t : Trigger) : Bool := fitsField L .trigSel t.source && polarityLegal t.polarity

/-- `pad_align` in 0..3 (41_node_codec.md R170). -/
def dataHandlingLegal (d : DataHandling) : Bool := decide (d.padAlign.toNat < 4)

/-- The legal sets of a repeat-block record (41_node_codec.md R171). -/
def repeatBlockLegal (r : RepeatBlock) : Bool :=
  blockCountLegal r.blockCount && decide (r.srcBurstOfs.toNat < 8192) && decide (r.dstBurstOfs.toNat < 8192)
    && decide (r.srcBlockOfs.toNat < 65536) && decide (r.dstBlockOfs.toNat < 65536)

/-- The operand of `set_config_direct` (43_channel_config.md R224). -/
def directConfigLegal (k : Cfg) (c : DirectConfig) : Bool :=
  fitsField k.layout .reqSel c.request && widthLegal c.srcWidth && widthLegal c.dstWidth && priorityLegal k c.priority

/-- `Valid(kind, c)` (41_node_codec.md R172). `src_sec` and `dst_sec` are components only with `FEATURES.security`
(R170): without it both are false. -/
def validConfig (k : Cfg) (kind : Kind) (c : NodeConfig) : Bool :=
  fitsField k.layout .reqSel c.request && widthLegal c.srcWidth && widthLegal c.dstWidth && burstLegal c.srcBurstLen
    && burstLegal c.dstBurstLen && triggerLegal k.layout c.trigger && dataHandlingLegal c.data
    && (k.features.security || !c.srcSec && !c.dstSec) && aligned4 c.srcAddr && aligned4 c.dstAddr && sizeLegal c.size
    && (match kind, c.rb with
        | .linear, none => true
        | .twoDimensional, some r => repeatBlockLegal r
        | _, _ => false)

/-! ## Nodes and queues -/

/-- The bank indices that a mask names, in bank-index order (10_state.md R21). -/
def maskRegs (m : BitVec 8) : List Nat := (List.range 8).filter fun i => m.getLsbD i

/-- The bank indices that a full node of a kind stores, the link last (10_state.md R21, 42_queue.md R197). -/
def kindRegs (k : Cfg) (kind : Kind) : List Nat := maskRegs (updAll k kind)

/-- `NODE_WORDS(kind)` (00_scope.md R7). -/
def nodeWords (k : Cfg) (kind : Kind) : Nat := (kindRegs k kind).length

/-- How many words a mask stores (20_memory.md R76). -/
def maskCount (k : Cfg) (kind : Kind) (m : BitVec 8) : Nat := ((kindRegs k kind).filter fun i => m.getLsbD i).length

/-- One node address of a queue whose nodes have `words` words and whose head is `h`: aligned, in the window of the
head, its static footprint not crossing the top of the window (42_queue.md R191). -/
def nodeAddrLegal (words : Nat) (h a : Word) : Bool :=
  aligned4 a && a.extractLsb' 16 16 == h.extractLsb' 16 16
    && decide ((a.extractLsb' 0 16).toNat + 4 * words ≤ 65536)

/-- The static footprints of two nodes do not overlap (42_queue.md R191). -/
def footprintsDisjoint (words : Nat) (a b : Word) : Bool :=
  decide (a.toNat + 4 * words ≤ b.toNat) || decide (b.toNat + 4 * words ≤ a.toNat)

/-- Every two addresses of the list have disjoint footprints. -/
def allDisjoint (words : Nat) : List Word → Bool
  | [] => true
  | a :: as => as.all (footprintsDisjoint words a) && allDisjoint words as

/-- The address preconditions of every queue operation (42_queue.md R191). -/
def addressesLegal (words : Nat) (as : List Word) : Bool :=
  match as with
  | [] => true
  | h :: _ => as.all (nodeAddrLegal words h) && allDisjoint words as

end Sys2Proof.Machine
end

