-- ==== Sys2Proof/Machine/Ops.lean ====
section
/-! DEFINITION. Operations over memory, registers and the handle (20_memory.md, 40_register_file.md), hardware event
flags (45_channel_engine.md R325), replies and precondition violations (00_scope.md R10, R11), and taking an interrupt
and returning from it (60_exceptions.md R354 to R358). -/

namespace Sys2Proof.Machine

/-- The outcome of a step of this machine. -/
abbrev Out := Host.Outcome State Fault Refusal

/-! ## Memory (20_memory.md R70, R71; log 7, log 8) -/

/-- What an address that the memory does not list reads as. DESIGN CHOICE (log 7), unsafe: 10_state.md R56 leaves the
contents of memory at reset unspecified. -/
def unlistedByte : Byte := 0

/-- The byte at an address. -/
def memRead : Memory → Nat → Byte
  | [], _ => unlistedByte
  | (k, v) :: m, a => if k = a then v else memRead m a

/-- Stores a byte and keeps the canonical form: addresses rise, no entry equals the unlisted byte. -/
def memWrite : Memory → Nat → Byte → Memory
  | [], a, b => if b = unlistedByte then [] else [(a, b)]
  | (k, v) :: m, a, b =>
    if a < k then (if b = unlistedByte then (k, v) :: m else (a, b) :: (k, v) :: m)
    else if a = k then (if b = unlistedByte then m else (a, b) :: m)
    else (k, v) :: memWrite m a b

/-- The canonical form: addresses below 2^32 and strictly rising, no entry equal to the unlisted byte. -/
def Memory.wf : Memory → Bool
  | [] => true
  | (k, v) :: m =>
    decide (k < 2 ^ 32) && v != unlistedByte && m.all (fun c => decide (k < c.1)) && Memory.wf m

/-- `n` bytes from an address up; byte `k` lies at `(a + k) mod 2^32` (log 8). -/
def readBytes (m : Memory) (a : Word) (n : Nat) : List Byte :=
  (List.range n).map fun k => memRead m (a + BitVec.ofNat 32 k).toNat

/-- Stores bytes from an address up (log 8). -/
def writeBytes (m : Memory) (a : Word) : List Byte → Memory
  | [] => m
  | b :: bs => writeBytes (memWrite m a.toNat b) (a + 1) bs

/-- `MemRead(a, 4)`, little-endian (20_memory.md R71). -/
def readWord (m : Memory) (a : Word) : Word :=
  memRead m (a + 3).toNat ++ memRead m (a + 2).toNat ++ memRead m (a + 1).toNat ++ memRead m a.toNat

/-- The bytes of a word, lowest address first (20_memory.md R71). -/
def wordBytes (w : Word) : List Byte :=
  [w.extractLsb' 0 8, w.extractLsb' 8 8, w.extractLsb' 16 8, w.extractLsb' 24 8]

/-- `MemWrite(a, 4, w)`, little-endian (20_memory.md R71). -/
def writeWord (m : Memory) (a w : Word) : Memory := writeBytes m a (wordBytes w)

/-- Byte offset of the k-th word from an address. -/
def wordAddr (a : Word) (k : Nat) : Word := a + BitVec.ofNat 32 (4 * k)

/-- Consecutive words from an address up (20_memory.md R76), one write each. -/
def writeWords (m : Memory) (a : Word) : List Word → Memory
  | [] => m
  | w :: ws => writeWords (writeWord m a w) (a + 4) ws

/-! ## Channels -/

/-- A channel by number. Every use is guarded by `ch < NCH`. -/
def State.chan (s : State) (i : Nat) : Channel := s.chans.getD i (Channel.powerOn false)

/-- One channel replaced. -/
def State.setChan (s : State) (i : Nat) (c : Channel) : State := { s with chans := s.chans.set i c }

/-- `ch < NCH` (00_scope.md R7). -/
def State.hasChan (s : State) (i : Nat) : Bool := decide (i < s.chans.length)

/-- The handle of a channel replaced. -/
def State.setHandle (s : State) (i : Nat) (h : Handle) : State := s.setChan i { s.chan i with h := h }

/-- The kind of node a channel executes (10_state.md R20). -/
def kindOf (c : Channel) : Kind := if c.twoD then .twoDimensional else .linear

/-- The bits of CBR1 that a channel without 2-D addressing has: all but those of BRC and of the four directions
(10_state.md R24, 40_register_file.md R151). -/
def cbr1LinearMask (L : Layout) : Word :=
  ~~~(Fld.brc.mask L ||| Fld.srcDec.mask L ||| Fld.dstDec.mask L ||| Fld.blkSrcDec.mask L ||| Fld.blkDstDec.mask L)

/-- CBR1 as the channel has it (10_state.md R24). -/
def cbr1View (L : Layout) (c : Channel) (w : Word) : Word := if c.twoD then w else w &&& cbr1LinearMask L

/-- `LP = (CLBAR.LBA << 16) | (CLLR & 0x0000FFFC)` (10_state.md R30). -/
def linkPtr (c : Channel) : Word := (c.lba ++ (0 : BitVec 16)) ||| linkAddr c.cllr

/-- The register of a bank index (10_state.md R21). -/
def bankReg : Nat → Reg
  | 0 => .ctr1
  | 1 => .ctr2
  | 2 => .cbr1
  | 3 => .csar
  | 4 => .cdar
  | 5 => .ctr3
  | 6 => .cbr2
  | _ => .cllr

/-- The link registers and CLBAR: those the host must not write while the channel is enabled
(70_reset_and_hazards.md R411). -/
def isLinkReg : Reg → Bool
  | .ctr1 | .ctr2 | .cbr1 | .csar | .cdar | .ctr3 | .cbr2 | .cllr | .clbar => true
  | .ccr | .csr | .cfcr | .secAttr => false

/-- `reg_read` (40_register_file.md R141, R155). -/
def readReg (k : Cfg) (c : Channel) : Reg → Word
  | .ctr1 => c.ctr1
  | .ctr2 => c.ctr2
  | .cbr1 => cbr1View k.layout c c.cbr1
  | .csar => c.csar
  | .cdar => c.cdar
  | .ctr3 => if c.twoD then c.ctr3 else 0
  | .cbr2 => if c.twoD then c.cbr2 else 0
  | .cllr => c.cllr
  | .clbar => lbaWord c.lba
  | .ccr => ccrWord k.layout c.ccr
  | .csr => csrWord k.layout c.csr
  | .cfcr => 0
  | .secAttr => if k.features.security then secAttrWord k.layout c.secAttr else 0

/-- A write of a link register or CLBAR: registers and fields a channel lacks ignore it (40_register_file.md R143). -/
def linkWrite (L : Layout) (c : Channel) (r : Reg) (w : Word) : Channel :=
  match r with
  | .ctr1 => { c with ctr1 := w }
  | .ctr2 => { c with ctr2 := w }
  | .cbr1 => { c with cbr1 := cbr1View L c w }
  | .csar => { c with csar := w }
  | .cdar => { c with cdar := w }
  | .ctr3 => if c.twoD then { c with ctr3 := w } else c
  | .cbr2 => if c.twoD then { c with cbr2 := w } else c
  | .cllr => { c with cllr := w }
  | .clbar => { c with lba := w.extractLsb' 16 16 }
  | .ccr | .csr | .cfcr | .secAttr => c

/-! ## The atomic updates of CCR, CSR and SecAttr (40_register_file.md R146 to R156) -/

/-- `flag_clear` (R146). -/
def chFlagClear (fs : FlagSet) (c : Channel) : Channel :=
  { c with csr := { c.csr with flags := flagsDiff c.csr.flags fs } }

/-- `ie_write` (R147): afterwards the enabled set is exactly `fs`. -/
def chIeWrite (fs : FlagSet) (c : Channel) : Channel := { c with ccr := { c.ccr with ie := fs } }

/-- `ie_set` (R147): only turns on. -/
def chIeSet (fs : FlagSet) (c : Channel) : Channel :=
  { c with ccr := { c.ccr with ie := flagsOr c.ccr.ie fs } }

/-- The write of `CCR.PRIO` (R142); a wider value is truncated to the field. -/
def chSetPrio (L : Layout) (p : Word) (c : Channel) : Channel :=
  { c with ccr := { c.ccr with prio := p &&& Fld.prio.ones L } }

/-- `hw_suspend_req` (R152): ignored on a disabled channel. -/
def chSuspReq (c : Channel) : Channel := if c.ccr.en then { c with ccr := { c.ccr with susp := true } } else c

/-- `hw_resume` (R153): with no request pending it does nothing. -/
def chResume (c : Channel) : Channel :=
  if c.ccr.susp then
    { c with
      ccr := { c.ccr with susp := false }
      csr := { c.csr with flags := flagsDiff c.csr.flags flagSUSPF }
      hid := { c.hid with paused := false } }
  else c

/-- `hw_reset` (R156; while data is moving: 93_implementation_defined.md U4, log 41). -/
def chReset (c : Channel) : Channel :=
  { c with
    ccr := { c.ccr with en := false, susp := false }
    csr := ⟨true, FlagSet.empty⟩
    hid := Hidden.zero }

/-! ## Hardware events (45_channel_engine.md R325) -/

/-- `raise F` for HT, TC, SUSPF and TO: the flag is set and nothing else changes. -/
def chRaise (f : FlagSet) (c : Channel) : Channel :=
  { c with csr := { c.csr with flags := flagsOr c.csr.flags f } }

/-- `raise F` for DTE, ULE and USE: the flag is set and the channel stops where it is. -/
def chRaiseFatal (f : FlagSet) (c : Channel) : Channel :=
  { c with
    ccr := { c.ccr with en := false, susp := false }
    csr := ⟨true, flagsOr c.csr.flags f⟩ }

/-! ## Replies and violations -/

/-- The reply goes to the context that issued the command: HOST-IRQ while a handler runs, else HOST-APP. -/
def State.answer (s : State) (r : Reply) : State :=
  match s.isr with
  | some _ => { s with irqReply := some r }
  | none => { s with app := { s.app with reply := some r } }

/-- A reply without a value. -/
def plainReply (r : Result) : Reply := ⟨r, .none⟩

/-- A precondition violation (00_scope.md R11). -/
def violation (s : State) : Out :=
  match s.cfg.build with
  | .checked => .next (s.answer (plainReply .invalidParameter))
  | .debug => .fault .precondition
  | .unchecked => .refused .uncheckedViolation

/-! ## Interrupts (60_exceptions.md R352 to R358) -/

/-- The line of a channel (R352). -/
def State.irqLine (s : State) (i : Nat) : Bool := Machine.irqLine (s.chan i).csr (s.chan i).ccr

/-- Taking an interrupt (R354, R357): HOST-IRQ may start the handler of a channel whose line is high when no handler
is running; HOST-APP is held, and nothing of the block is saved or changed. -/
def takeInterrupt (ch : Nat) (s : State) : State :=
  if s.isr.isNone && s.hasChan ch && s.irqLine ch then { s with isr := some ⟨ch, false, none, none, []⟩ } else s

/-- Return from the handler (R358): nothing is restored, HOST-APP goes on. -/
def returnFromInterrupt (s : State) : State := { s with isr := none }

/-! ## The platform's answer to an access (20_memory.md R80, R81) -/

def optMatches {α : Type} [BEq α] (o : Option α) (a : α) : Bool :=
  match o with
  | none => true
  | some b => b == a

/-- One denial applies to an access (log 11). -/
def denialMatches (d : Denial) (x : Access) : Bool :=
  optMatches d.ch x.ch && optMatches d.chSec x.chSec && optMatches d.chPriv x.chPriv && optMatches d.sideSec x.sideSec
    && optMatches d.port x.port && optMatches d.kind x.kind && optMatches d.n x.n && decide (d.lo ≤ x.addr)
    && decide (x.addr ≤ d.hi)

/-- `Admit` (20_memory.md R80). -/
def admitsAccess (ds : List Denial) (x : Access) : Bool := !ds.any fun d => denialMatches d x

/-- The access of a channel with its security attributes and port at that instant (20_memory.md R80). DESIGN CHOICE
(log 51): with FEATURES.security off CH_SEC and CH_PRIV are 0 here, while the bits SRC_SEC and DST_SEC of CTR1 are passed
as stored, since R80 names no gate. -/
def accessOf (s : State) (i : Nat) (k : AccessKind) (a : Word) (n : Nat) : Access :=
  let c := s.chan i
  let sec := s.cfg.features.security
  let L := s.cfg.layout
  { ch := i
    chSec := sec && c.secAttr.chSec
    chPriv := sec && c.secAttr.chPriv
    sideSec := match k with
      | .dataRead => Fld.srcSec.test L c.ctr1
      | .dataWrite => Fld.dstSec.test L c.ctr1
      | .linkRead => false
    port := match k with
      | .dataRead => Fld.srcPort.test L c.ctr1
      | .dataWrite => Fld.dstPort.test L c.ctr1
      | .linkRead => false
    kind := k
    addr := a
    n := n }

def State.admits (s : State) (i : Nat) (k : AccessKind) (a : Word) (n : Nat) : Bool :=
  admitsAccess s.cfg.denials (accessOf s i k a n)

/-- The address belongs to a peripheral register (20_memory.md R81; log 9). -/
def State.isDevice (s : State) (a : Word) : Bool := s.cfg.devices.any fun r => decide (r.1 ≤ a) && decide (a ≤ r.2)

/-- A data read (20_memory.md R81): recorded in the history. A peripheral register answers with a free value. -/
def dataRead (i : Nat) (a : Word) (n : Nat) (s : State) : List Byte × State :=
  if s.isDevice a then
    let bs := (List.range n).map fun k => Config.deviceByte (a + BitVec.ofNat 32 k) s.fresh
    (bs, { s with fresh := s.fresh + 1, trace := s.trace ++ [.read i a bs] })
  else
    let bs := readBytes s.mem a n
    (bs, { s with trace := s.trace ++ [.read i a bs] })

/-- A data write (20_memory.md R81): recorded in the history. A peripheral register keeps nothing (log 9). -/
def dataWrite (i : Nat) (a : Word) (bs : List Byte) (s : State) : State :=
  { s with
    mem := if s.isDevice a then s.mem else writeBytes s.mem a bs
    trace := s.trace ++ [.write i a bs] }

end Sys2Proof.Machine
end

