-- ==== Sys2Proof/Machine/Engine.lean ====
section
/-! DEFINITION. The channel engine and the arbiter: derived quantities, start, data step, block end, completion,
link step, suspend acknowledge (45_channel_engine.md), gates and grant (46_arbiter.md). -/

namespace Sys2Proof.Machine

/-! ## Derived quantities (45_channel_engine.md R301; width code 3: log 36) -/

/-- Bytes of a data item from its width code. -/
def widthBytes (code : Word) : Nat := 2 ^ code.toNat

def srcItem (L : Layout) (c : Channel) : Nat := widthBytes (Fld.srcWidth.get L c.ctr1)

def dstItem (L : Layout) (c : Channel) : Nat := widthBytes (Fld.dstWidth.get L c.ctr1)

/-- `sburst`: bytes of a source burst. -/
def srcBurstBytes (k : Cfg) (c : Channel) : Nat :=
  ((Fld.srcBurst.get k.layout c.ctr1).toNat + 1) * (if k.burstBeats then srcItem k.layout c else 1)

/-- `dburst`: bytes of a destination burst. -/
def dstBurstBytes (k : Cfg) (c : Channel) : Nat :=
  ((Fld.dstBurst.get k.layout c.ctr1).toNat + 1) * (if k.burstBeats then dstItem k.layout c else 1)

/-- `Plain`: equal widths and no transform. -/
def isPlain (L : Layout) (c : Channel) : Bool :=
  decide (srcItem L c = dstItem L c) && Fld.padAlign.get L c.ctr1 == 0 && !Fld.srcByteXchg.test L c.ctr1
    && !Fld.dstByteXchg.test L c.ctr1 && !Fld.dstHalfXchg.test L c.ctr1

/-- `BNDT`: bytes still to read in the current block. -/
def bndtOf (L : Layout) (c : Channel) : Nat := (Fld.bndt.get L c.cbr1).toNat

/-- `BRC`, 0 on a channel without 2-D addressing (10_state.md R24). -/
def brcOf (L : Layout) (c : Channel) : Nat := (Fld.brc.get L (cbr1View L c c.cbr1)).toNat

def setBndt (L : Layout) (n : Nat) (c : Channel) : Channel :=
  linkWrite L c .cbr1 (Fld.bndt.ins L (BitVec.ofNat 32 n) c.cbr1)

def setBrc (L : Layout) (n : Nat) (c : Channel) : Channel :=
  linkWrite L c .cbr1 (Fld.brc.ins L (BitVec.ofNat 32 n) c.cbr1)

/-- `EVENT_MODE` (45_channel_engine.md R318). -/
def eventMode (L : Layout) (c : Channel) : Nat := (Fld.eventMode.get L c.ctr2).toNat

/-- `CfgValid` (45_channel_engine.md R303). DESIGN CHOICE (log 47): whether the reserved trigger polarity 3 breaks it,
which 30_encoding.md R122 says and R303 does not, is a parameter. -/
def cfgValid (k : Cfg) (c : Channel) : Bool :=
  let L := k.layout
  Fld.srcWidth.get L c.ctr1 != 3 && Fld.dstWidth.get L c.ctr1 != 3
    && !(k.polarityChecked && Fld.trigPol.get L c.ctr2 == 3) && decide (bndtOf L c % srcItem L c = 0)
    && decide (c.csar.toNat % srcItem L c = 0) && decide (c.cdar.toNat % dstItem L c = 0)

/-- `U_CBR1` is in the update mask of CLLR. -/
def linkLoadsCbr1 (L : Layout) (c : Channel) : Bool := Fld.uCbr1.test L c.cllr

/-! ## Start of a block (45_channel_engine.md R305, R306; event units of EVENT_MODE 1 to 3: log 16) -/

/-- The bytes of the event unit that starts with a node. -/
def nodeUnit (L : Layout) (c : Channel) : Nat :=
  if eventMode L c = 0 then bndtOf L c else (brcOf L c + 1) * bndtOf L c

/-- `begin_block()` at the enable and after a link step (R306). -/
def beginNode (k : Cfg) (c : Channel) : Channel :=
  { c with hid := { c.hid with
      unitTotal := nodeUnit k.layout c
      unitMoved := 0
      sbLeft := srcBurstBytes k c
      dbLeft := dstBurstBytes k c } }

/-- `begin_block()` at a block reload (R306, R313): the event unit goes on unless events are per block. -/
def beginRepeat (k : Cfg) (c : Channel) : Channel :=
  { c with hid := { c.hid with
      unitTotal := if eventMode k.layout c = 0 then bndtOf k.layout c else c.hid.unitTotal
      unitMoved := if eventMode k.layout c = 0 then 0 else c.hid.unitMoved
      sbLeft := srcBurstBytes k c
      dbLeft := dstBurstBytes k c } }

/-- The reload copies of the block size and count (R305, R316). -/
def saveReload (L : Layout) (c : Channel) : Channel :=
  { c with hid := { c.hid with
      blkReload := BitVec.ofNat 16 (bndtOf L c)
      brcReload := BitVec.ofNat 11 (brcOf L c) } }

/-- `E.START` (R305). -/
def engineStart (k : Cfg) (c0 : Channel) : Channel :=
  let c := saveReload k.layout { c0 with hid := { c0.hid with paused := false, tcDue := false } }
  if bndtOf k.layout c ≠ 0 then
    let c := { c with hid := { c.hid with linkPending := false } }
    if cfgValid k c then beginNode k c else chRaiseFatal flagUSE c
  else if c.cllr ≠ 0 ∧ linkLoadsCbr1 k.layout c then { c with hid := { c.hid with linkPending := true } }
  else chRaiseFatal flagUSE c

/-- `hw_enable` (40_register_file.md R148): nothing when EN is already 1. -/
def chEnable (k : Cfg) (c : Channel) : Channel :=
  if c.ccr.en then c
  else engineStart k { c with ccr := { c.ccr with en := true }, csr := { c.csr with idle := false } }

/-! ## Completion and block end (45_channel_engine.md R313, R314, R318) -/

/-- `complete()` (R314); EVENT_MODE 3 raises TC here (R318), and so does an event still due (log 16). -/
def engineComplete (L : Layout) (c : Channel) : Channel :=
  let c := if eventMode L c = 3 || c.hid.tcDue then chRaise flagTC c else c
  { c with
    ccr := { c.ccr with en := false, susp := false }
    csr := { c.csr with idle := true }
    hid := { c.hid with tcDue := false } }

/-- The block offsets (R313). -/
def blockOffsets (L : Layout) (c : Channel) : Channel :=
  if c.twoD then
    let so := Fld.blkSrcOfs.get L c.cbr2
    let dO := Fld.blkDstOfs.get L c.cbr2
    { c with
      csar := if Fld.blkSrcDec.test L c.cbr1 then c.csar - so else c.csar + so
      cdar := if Fld.blkDstDec.test L c.cbr1 then c.cdar - dO else c.cdar + dO }
  else c

/-- The full-complete event of a block end (R313, R318): EVENT_MODE 0 at every block, 1 at the last block of the
node, 2 after the following link step or at the completion, 3 only at the completion. -/
def blockEvent (L : Layout) (c : Channel) : Channel :=
  match eventMode L c with
  | 0 => chRaise flagTC c
  | 1 => if brcOf L c = 0 then chRaise flagTC c else c
  | 2 => if brcOf L c = 0 then { c with hid := { c.hid with tcDue := true } } else c
  | _ => c

/-- `block_end()` (R313). -/
def blockEnd (k : Cfg) (c0 : Channel) : Channel :=
  let c := blockEvent k.layout (blockOffsets k.layout c0)
  if 0 < brcOf k.layout c then
    beginRepeat k (setBndt k.layout c.hid.blkReload.toNat (setBrc k.layout (brcOf k.layout c - 1) c))
  else if c.cllr ≠ 0 then { c with hid := { c.hid with linkPending := true } }
  else engineComplete k.layout c

/-! ## Data movement (45_channel_engine.md R308 to R311) -/

/-- `ceil(unit_total / 2)` (R309). -/
def halfPoint (total : Nat) : Nat := (total + 1) / 2

/-- HT is raised in EVENT_MODE 3 only in the last node (R318; log 16). -/
def halfAllowed (L : Layout) (c : Channel) : Bool := decide (eventMode L c ≠ 3) || c.cllr == 0

/-- `update_bndt(g)` (R309). -/
def updateBndt (L : Layout) (g : Nat) (c0 : Channel) : Channel :=
  let c := setBndt L (bndtOf L c0 - g) c0
  let moved := c0.hid.unitMoved + g
  let c := { c with hid := { c.hid with unitMoved := moved } }
  if c0.hid.unitMoved < halfPoint c0.hid.unitTotal ∧ halfPoint c0.hid.unitTotal ≤ moved ∧ halfAllowed L c then
    chRaise flagHT c
  else c

/-- The increments of `update_addresses` (R310). -/
def incAddresses (L : Layout) (nr nw : Nat) (c : Channel) : Channel :=
  { c with
    csar := if Fld.srcInc.test L c.ctr1 then c.csar + BitVec.ofNat 32 nr else c.csar
    cdar := if Fld.dstInc.test L c.ctr1 then c.cdar + BitVec.ofNat 32 nw else c.cdar
    hid := { c.hid with sbLeft := c.hid.sbLeft - nr, dbLeft := c.hid.dbLeft - nw } }

/-- The end of a source burst (R310). -/
def srcBurstEnd (k : Cfg) (c : Channel) : Channel :=
  if c.hid.sbLeft = 0 ∨ bndtOf k.layout c = 0 then
    let o := Fld.srcBurstOfs.get k.layout c.ctr3
    { c with
      csar := if c.twoD then (if Fld.srcDec.test k.layout c.cbr1 then c.csar - o else c.csar + o) else c.csar
      hid := { c.hid with sbLeft := srcBurstBytes k c } }
  else c

/-- The end of a destination burst (R310). -/
def dstBurstEnd (k : Cfg) (c : Channel) : Channel :=
  if c.hid.dbLeft = 0 ∨ bndtOf k.layout c = 0 then
    let o := Fld.dstBurstOfs.get k.layout c.ctr3
    { c with
      cdar := if c.twoD then (if Fld.dstDec.test k.layout c.cbr1 then c.cdar - o else c.cdar + o) else c.cdar
      hid := { c.hid with dbLeft := dstBurstBytes k c } }
  else c

/-- `update_addresses(nr, nw)` (R310). -/
def updateAddresses (k : Cfg) (nr nw : Nat) (c : Channel) : Channel :=
  dstBurstEnd k (srcBurstEnd k (incAddresses k.layout nr nw c))

/-- The register part of a data step that moved `g` source bytes and wrote `nw` bytes (R308). -/
def advance (k : Cfg) (g nw : Nat) (c : Channel) : Channel :=
  let c := updateAddresses k g nw (updateBndt k.layout g c)
  if bndtOf k.layout c = 0 then blockEnd k c else c

/-- `g`: bytes of source that one step consumes (R308). -/
def stepBytes (L : Layout) (c : Channel) : Nat := min (max (srcItem L c) (dstItem L c)) (bndtOf L c)

/-- The addresses of `n` accesses of `item` bytes (R308). -/
def accessAddrs (a : Word) (inc : Bool) (item n : Nat) : List Word :=
  (List.range n).map fun k => if inc then a + BitVec.ofNat 32 (k * item) else a

/-- Source reads in ascending order; `none` when one is refused (R308). -/
def sourceReads (i n : Nat) : List Word → List Byte → State → Option (List Byte) × State
  | [], acc, s => (some acc, s)
  | a :: as, acc, s =>
    if s.admits i .dataRead a n then
      let r := dataRead i a n s
      sourceReads i n as (acc ++ r.1) r.2
    else (none, s)

/-- Destination writes in ascending order; `false` when one is refused (R308). -/
def destWrites (i n : Nat) : List (Word × List Byte) → State → Bool × State
  | [], s => (true, s)
  | (a, bs) :: rest, s =>
    if s.admits i .dataWrite a n then destWrites i n rest (dataWrite i a bs s) else (false, s)

/-- The CTR1 fields that `XFORM` looks at (R311). -/
def xformArgs (L : Layout) (c : Channel) : XformArgs where
  srcWidth := (Fld.srcWidth.get L c.ctr1).toNat
  dstWidth := (Fld.dstWidth.get L c.ctr1).toNat
  padAlign := (Fld.padAlign.get L c.ctr1).toNat
  srcByteXchg := Fld.srcByteXchg.test L c.ctr1
  dstByteXchg := Fld.dstByteXchg.test L c.ctr1
  dstHalfXchg := Fld.dstHalfXchg.test L c.ctr1

/-- The bytes written for the bytes read (R311): a free value unless `Plain`, its length a multiple of `dw`
(log 10). -/
def transform (L : Layout) (c : Channel) (bs : List Byte) : List Byte :=
  if isPlain L c then bs
  else
    let d := Config.xform (xformArgs L c) bs
    d.take (d.length / dstItem L c * dstItem L c)

/-- The items of `n` bytes of a byte string. -/
def items (n : Nat) (bs : List Byte) : List (List Byte) :=
  (List.range (bs.length / n)).map fun k => (bs.drop (k * n)).take n

/-- The accesses of one data step (R308): `none` when one is refused, else how many bytes were written. -/
def dataAccess (i : Nat) (s : State) : Option Nat × State :=
  let c := s.chan i
  let L := s.cfg.layout
  let n := stepBytes L c / srcItem L c
  match sourceReads i (srcItem L c) (accessAddrs c.csar (Fld.srcInc.test L c.ctr1) (srcItem L c) n) [] s with
  | (none, s1) => (none, s1)
  | (some bs, s1) =>
    let out := transform L c bs
    let its := items (dstItem L c) out
    let addrs := accessAddrs c.cdar (Fld.dstInc.test L c.ctr1) (dstItem L c) its.length
    match destWrites i (dstItem L c) (addrs.zip its) s1 with
    | (false, s2) => (none, s2)
    | (true, s2) => (some out.length, s2)

/-- `E.DATA` once it is enabled (R308): a refused access raises DTE and changes no register (R321). -/
def dataStep (i : Nat) (s : State) : State :=
  match dataAccess i s with
  | (none, s') => s'.setChan i (chRaiseFatal flagDTE (s.chan i))
  | (some nw, s') => s'.setChan i (advance s.cfg (stepBytes s.cfg.layout (s.chan i)) nw (s.chan i))

/-! ## The descriptor decoder (40_register_file.md R150, 45_channel_engine.md R315, R316) -/

/-- The bank indices of the registers a channel has (10_state.md R20, R21). -/
def channelRegs (c : Channel) : List Nat := if c.twoD then List.range 8 else [0, 1, 2, 3, 4, 7]

/-- The registers a fetch loads, in bank-index order: those the mask names and the channel has (R150;
93_implementation_defined.md U7). -/
def fetchRegs (L : Layout) (c : Channel) : List Reg :=
  ((channelRegs c).filter fun i => (linkUpd L c.cllr).getLsbD i).map bankReg

/-- How many words a channel's fetch reads. -/
def fetchCount (s : State) (i : Nat) : Nat := (fetchRegs s.cfg.layout (s.chan i)).length

/-- The fetch runs over the top of the window (20_memory.md R78; log 19). -/
def crossesWindow (L : Layout) (c : Channel) : Bool :=
  decide (65536 < ((linkPtr c).extractLsb' 0 16).toNat + 4 * (fetchRegs L c).length)

/-- Every read of the fetch is admitted (40_register_file.md R150). -/
def fetchAdmitted (i : Nat) (s : State) : Bool :=
  (List.range (fetchCount s i)).all fun k => s.admits i .linkRead (wordAddr (linkPtr (s.chan i)) k) 4

/-- The registers and the words a fetch loads into them. -/
def fetchWords (i : Nat) (s : State) : List (Reg × Word) :=
  (fetchRegs s.cfg.layout (s.chan i)).zip
    ((List.range (fetchCount s i)).map fun k => readWord s.mem (wordAddr (linkPtr (s.chan i)) k))

/-- All the selected registers change together (40_register_file.md R150, R151). -/
def loadWords (L : Layout) (c : Channel) (ws : List (Reg × Word)) : Channel :=
  ws.foldl (fun c p => linkWrite L c p.1 p.2) c

/-- `link_load` (40_register_file.md R150): the channel with its new registers, or nothing when the fetch fails. -/
def linkLoad (i : Nat) (s : State) : Option Channel :=
  if crossesWindow s.cfg.layout (s.chan i) || !fetchAdmitted i s then none
  else some (loadWords s.cfg.layout (s.chan i) (fetchWords i s))

/-- What `E.LINK` does after a load that followed the mask `m` (45_channel_engine.md R316). -/
def afterLoad (k : Cfg) (loadsCbr1 : Bool) (c0 : Channel) : Channel :=
  let c := if c0.hid.tcDue then chRaise flagTC { c0 with hid := { c0.hid with tcDue := false } } else c0
  let c := { c with hid := { c.hid with linkPending := false } }
  let c := if loadsCbr1 then saveReload k.layout c
    else setBndt k.layout c.hid.blkReload.toNat (setBrc k.layout c.hid.brcReload.toNat c)
  if bndtOf k.layout c = 0 then
    if c.cllr ≠ 0 ∧ linkLoadsCbr1 k.layout c then { c with hid := { c.hid with linkPending := true } }
    else chRaiseFatal flagUSE c
  else if cfgValid k c then beginNode k c
  else chRaiseFatal flagUSE c

/-- `E.LINK` once it is enabled (45_channel_engine.md R316). DESIGN CHOICE (log 50): a full-complete event still due
(EVENT_MODE 2, R318) rises with the load, also when the loaded node is not valid (USE); when the fetch fails (ULE) it does
not rise and stays due until the next start or reset. -/
def linkStep (i : Nat) (s : State) : State :=
  match linkLoad i s with
  | none => s.setChan i (chRaiseFatal flagULE (s.chan i))
  | some c => s.setChan i (afterLoad s.cfg (linkLoadsCbr1 s.cfg.layout (s.chan i)) c)

/-! ## Gates and grant (46_arbiter.md) -/

/-- The next data step is the first of its block (log 15). -/
def firstOfBlock (L : Layout) (c : Channel) : Bool := decide (bndtOf L c = c.hid.blkReload.toNat)

/-- The next data step is the first of its burst, on the requesting side (R342; log 15). -/
def firstOfBurst (k : Cfg) (c : Channel) : Bool :=
  if Fld.dstReq.test k.layout c.ctr2 then decide (c.hid.dbLeft = dstBurstBytes k c)
  else decide (c.hid.sbLeft = srcBurstBytes k c)

/-- The next data step is the first of the first block of its node (R342; log 15). -/
def firstOfNode (L : Layout) (c : Channel) : Bool := firstOfBlock L c && decide (brcOf L c = c.hid.brcReload.toNat)

/-- The request gate (R342). -/
def requestGate (k : Cfg) (c : Channel) : Bool :=
  Fld.swReq.test k.layout c.ctr2 || c.pins.req
    || (if Fld.blockReq.test k.layout c.ctr2 then !firstOfBlock k.layout c else !firstOfBurst k c)

/-- A trigger is configured: the polarity is Rising or Falling (R342, 45_channel_engine.md R324). -/
def triggerOn (L : Layout) (c : Channel) : Bool := Fld.trigPol.get L c.ctr2 == 1 || Fld.trigPol.get L c.ctr2 == 2

/-- The trigger gate at a data step (R342). -/
def triggerGate (k : Cfg) (c : Channel) : Bool :=
  !triggerOn k.layout c || c.pins.trig ||
    (match (Fld.trigMode.get k.layout c.ctr2).toNat with
     | 0 => !firstOfBlock k.layout c
     | 1 => !firstOfNode k.layout c
     | 2 => true
     | _ => !firstOfBurst k c)

/-- The trigger gate at a link step (R342). -/
def linkGate (L : Layout) (c : Channel) : Bool :=
  !triggerOn L c || c.pins.trig || decide ((Fld.trigMode.get L c.ctr2).toNat ≠ 2)

/-- The channel runs: enabled and not paused (45_channel_engine.md R300, R327). -/
def running (c : Channel) : Bool := c.ccr.en && !c.hid.paused

/-- A data step is enabled but for the grant (45_channel_engine.md R307). -/
def dataReady (k : Cfg) (c : Channel) : Bool :=
  running c && !c.hid.linkPending && decide (0 < bndtOf k.layout c) && requestGate k c && triggerGate k c

/-- A link step is enabled but for the grant (45_channel_engine.md R316, 46_arbiter.md R342). -/
def linkReady (L : Layout) (c : Channel) : Bool := running c && c.hid.linkPending && linkGate L c

/-- `wants(ch)` (R341). -/
def wants (k : Cfg) (c : Channel) : Bool :=
  running c && (c.hid.linkPending || (decide (0 < bndtOf k.layout c) && requestGate k c && triggerGate k c))

/-- The channel may be granted (R343): it wants the bus, and under StrictPriority no channel of a higher class does. -/
def grantable (s : State) (i : Nat) : Bool :=
  s.hasChan i && wants s.cfg (s.chan i)
    && (!s.cfg.strictPriority
        || s.chans.all fun d => !(wants s.cfg d && decide ((s.chan i).ccr.prio < d.ccr.prio)))

/-- `E.DATA` is enabled (45_channel_engine.md R307). -/
def dataEnabled (s : State) (i : Nat) : Bool := grantable s i && dataReady s.cfg (s.chan i)

/-- `E.LINK` is enabled (45_channel_engine.md R316). -/
def linkEnabled (s : State) (i : Nat) : Bool := grantable s i && linkReady s.cfg.layout (s.chan i)

/-- A data step of a channel, if it is enabled. -/
def takeData (i : Nat) (s : State) : State := if dataEnabled s i then dataStep i s else s

/-- A link step of a channel, if it is enabled. -/
def takeLink (i : Nat) (s : State) : State := if linkEnabled s i then linkStep i s else s

/-- `E.SUSP_ACK` is enabled (45_channel_engine.md R326). -/
def ackEnabled (s : State) (i : Nat) : Bool :=
  s.hasChan i && (s.chan i).ccr.en && (s.chan i).ccr.susp && !(s.chan i).hid.paused

/-- `E.SUSP_ACK` (45_channel_engine.md R326). -/
def chAck (c : Channel) : Channel := chRaise flagSUSPF { c with hid := { c.hid with paused := true } }

/-- `E.RAISE_TO` is enabled (45_channel_engine.md R324). -/
def overrunEnabled (s : State) (i : Nat) : Bool :=
  s.hasChan i && (s.chan i).ccr.en && triggerOn s.cfg.layout (s.chan i) && (s.chan i).pins.trigOverrun

/-- One channel updated by a function. -/
def State.onChan (s : State) (i : Nat) (f : Channel → Channel) : State := s.setChan i (f (s.chan i))

end Sys2Proof.Machine
end

