-- ==== Sys2Proof/Machine/Codec.lean ====
section
/-! DEFINITION. The node codec: a configuration to a register image and back (41_node_codec.md), and the field lists
that the configuration setters and getters share with it (43_channel_config.md). -/

namespace Sys2Proof.Machine

/-! ## Values of fields (41_node_codec.md R174, R177) -/

def directionOf (L : Layout) (ctr2 : Word) : Direction :=
  if Fld.swReq.test L ctr2 then .memToMem else if Fld.dstReq.test L ctr2 then .memToPeriph else .periphToMem

def widthOf (code : Word) : Width :=
  match code.toNat with
  | 0 => .byte
  | 1 => .halfWord
  | 2 => .word
  | _ => .reserved

def incOf (b : Bool) : Inc := if b then .incremented else .fixed

def portOf (b : Bool) : Port := if b then .port1 else .port0

def hwModeOf (b : Bool) : HwMode := if b then .block else .burst

def dirOf (b : Bool) : Dir := if b then .subtract else .add

def polarityOf (code : Word) : Polarity :=
  match code.toNat with
  | 0 => .none
  | 1 => .rising
  | 2 => .falling
  | _ => .reserved

def trigModeOf (code : Word) : TrigMode :=
  match code.toNat with
  | 0 => .block
  | 1 => .repeatedBlock
  | 2 => .node
  | _ => .singleBurst

/-! ## Parts of a configuration as lists of fields -/

def portFields (src dst : Port) : List (Fld × Word) := [(.srcPort, src.code), (.dstPort, dst.code)]

/-- Burst lengths are stored as length-1 (30_encoding.md R110, R111). -/
def burstFields (src dst : Word) : List (Fld × Word) := [(.srcBurst, src - 1), (.dstBurst, dst - 1)]

def triggerFields (t : Trigger) : List (Fld × Word) :=
  [(.trigSel, t.source), (.trigPol, t.polarity.code), (.trigMode, t.mode.code)]

def dataHandlingFields (d : DataHandling) : List (Fld × Word) :=
  [(.srcByteXchg, .ofBool d.srcByteXchg), (.dstByteXchg, .ofBool d.dstByteXchg),
   (.dstHalfXchg, .ofBool d.dstHalfXchg), (.padAlign, d.padAlign)]

def sideSecFields (src dst : Bool) : List (Fld × Word) := [(.srcSec, .ofBool src), (.dstSec, .ofBool dst)]

def widthIncFields (sw dw : Width) (si di : Inc) : List (Fld × Word) :=
  [(.srcWidth, sw.code), (.srcInc, si.code), (.dstWidth, dw.code), (.dstInc, di.code)]

/-- Request source and direction (30_encoding.md R112). -/
def requestFields (request : Word) (d : Direction) : List (Fld × Word) :=
  [(.reqSel, request), (.swReq, .ofBool (d == .memToMem)), (.dstReq, .ofBool (d == .memToPeriph))]

/-- The block count is stored as count-1 (30_encoding.md R110). -/
def rbCbr1Fields (r : RepeatBlock) : List (Fld × Word) :=
  [(.brc, r.blockCount - 1), (.srcDec, r.srcBurstDir.code), (.dstDec, r.dstBurstDir.code),
   (.blkSrcDec, r.srcBlockDir.code), (.blkDstDec, r.dstBlockDir.code)]

def rbCtr3Fields (r : RepeatBlock) : List (Fld × Word) :=
  [(.srcBurstOfs, r.srcBurstOfs), (.dstBurstOfs, r.dstBurstOfs)]

def rbCbr2Fields (r : RepeatBlock) : List (Fld × Word) := [(.blkSrcOfs, r.srcBlockOfs), (.blkDstOfs, r.dstBlockOfs)]

/-- The repeat-block default (43_channel_config.md R245). -/
def rbDefault : RepeatBlock := ⟨1, 0, .add, 0, .add, 0, .add, 0, .add⟩

/-! ## Reading the parts back -/

def triggerOf (L : Layout) (ctr2 : Word) : Trigger :=
  ⟨Fld.trigSel.get L ctr2, polarityOf (Fld.trigPol.get L ctr2), trigModeOf (Fld.trigMode.get L ctr2)⟩

def dataHandlingOf (L : Layout) (ctr1 : Word) : DataHandling :=
  ⟨Fld.srcByteXchg.test L ctr1, Fld.dstByteXchg.test L ctr1, Fld.dstHalfXchg.test L ctr1, Fld.padAlign.get L ctr1⟩

def repeatBlockOf (L : Layout) (cbr1 ctr3 cbr2 : Word) : RepeatBlock where
  blockCount := Fld.brc.get L cbr1 + 1
  srcBurstOfs := Fld.srcBurstOfs.get L ctr3
  srcBurstDir := dirOf (Fld.srcDec.test L cbr1)
  dstBurstOfs := Fld.dstBurstOfs.get L ctr3
  dstBurstDir := dirOf (Fld.dstDec.test L cbr1)
  srcBlockOfs := Fld.blkSrcOfs.get L cbr2
  srcBlockDir := dirOf (Fld.blkSrcDec.test L cbr1)
  dstBlockOfs := Fld.blkDstOfs.get L cbr2
  dstBlockDir := dirOf (Fld.blkDstDec.test L cbr1)

def directConfigOf (L : Layout) (ctr1 ctr2 prio : Word) : DirectConfig where
  request := Fld.reqSel.get L ctr2
  direction := directionOf L ctr2
  srcInc := incOf (Fld.srcInc.test L ctr1)
  dstInc := incOf (Fld.dstInc.test L ctr1)
  srcWidth := widthOf (Fld.srcWidth.get L ctr1)
  dstWidth := widthOf (Fld.dstWidth.get L ctr1)
  priority := prio

/-! ## fill_node and decode_node -/

/-- Word 0 of a node (R174); with `FEATURES.security` off the two security bits are stored 0. DESIGN CHOICE (log 44): a
reserved width, which 41_node_codec.md R176 says never happens, is stored as its code 3. -/
def fillCtr1 (k : Cfg) (c : NodeConfig) : Word :=
  pack k.layout (widthIncFields c.srcWidth c.dstWidth c.srcInc c.dstInc ++ burstFields c.srcBurstLen c.dstBurstLen
    ++ dataHandlingFields c.data ++ portFields c.srcPort c.dstPort
    ++ sideSecFields (k.features.security && c.srcSec) (k.features.security && c.dstSec))

/-- Word 1 of a node (R174). DESIGN CHOICE (log 44): a reserved polarity, which 41_node_codec.md R176 says never
happens, is stored as its code 3. -/
def fillCtr2 (L : Layout) (c : NodeConfig) : Word :=
  pack L (requestFields c.request c.direction ++ [(.blockReq, c.hwMode.code)] ++ triggerFields c.trigger
    ++ [(.eventMode, 0)])

/-- Word 2 of a node without the 2-D part (R174). -/
def fillCbr1 (L : Layout) (c : NodeConfig) : Word := pack L [(.bndt, c.size)]

/-- `fill_node` (R174). A 2-D node without a repeat-block record is no operand of the command; its 2-D words are
those of the default (log 35). DESIGN CHOICE (log 42): the answer has eight words for a 2-D node also where a full one
stores seven; the store of the node leaves the absent register out. -/
def fillNode (k : Cfg) (kind : Kind) (c : NodeConfig) : Node :=
  let L := k.layout
  match kind with
  | .linear => .linear (fillCtr1 k c) (fillCtr2 L c) (fillCbr1 L c) c.srcAddr c.dstAddr 0
  | .twoDimensional =>
    let r := c.rb.getD rbDefault
    .twoDimensional (fillCtr1 k c) (fillCtr2 L c) (fillCbr1 L c ||| pack L (rbCbr1Fields r)) c.srcAddr c.dstAddr
      (pack L (rbCtr3Fields r)) (pack L (rbCbr2Fields r)) 0

/-- The configuration of a register image (R177). DESIGN CHOICE (log 45): `src_sec` and `dst_sec` are the stored bits
whatever `FEATURES.security` says, although R170 gives a configuration the two components only with it. -/
def configOf (L : Layout) (ctr1 ctr2 cbr1 csar cdar : Word) (rb : Option RepeatBlock) : NodeConfig where
  request := Fld.reqSel.get L ctr2
  direction := directionOf L ctr2
  srcInc := incOf (Fld.srcInc.test L ctr1)
  dstInc := incOf (Fld.dstInc.test L ctr1)
  srcWidth := widthOf (Fld.srcWidth.get L ctr1)
  dstWidth := widthOf (Fld.dstWidth.get L ctr1)
  hwMode := hwModeOf (Fld.blockReq.test L ctr2)
  srcPort := portOf (Fld.srcPort.test L ctr1)
  dstPort := portOf (Fld.dstPort.test L ctr1)
  srcBurstLen := Fld.srcBurst.get L ctr1 + 1
  dstBurstLen := Fld.dstBurst.get L ctr1 + 1
  trigger := triggerOf L ctr2
  data := dataHandlingOf L ctr1
  srcSec := Fld.srcSec.test L ctr1
  dstSec := Fld.dstSec.test L ctr1
  srcAddr := csar
  dstAddr := cdar
  size := Fld.bndt.get L cbr1
  rb := rb

/-- `decode_node` (R177): always succeeds, no validation. -/
def nodeToConfig (L : Layout) : Node → NodeConfig × Kind
  | .linear a b c d e _ => (configOf L a b c d e none, .linear)
  | .twoDimensional a b c d e f g _ => (configOf L a b c d e (some (repeatBlockOf L c f g)), .twoDimensional)

/-- The word of a bank index in an image: the eight words of a node in bank-index order (10_state.md R21). -/
def imgWord (img : List Word) (i : Nat) : Word := img.getD i 0

/-- The image of a node, zero where its kind has no register. -/
def nodeImage : Node → List Word
  | .linear a b c d e f => [a, b, c, d, e, 0, 0, f]
  | .twoDimensional a b c d e f g h => [a, b, c, d, e, f, g, h]

def nodeKind : Node → Kind
  | .linear _ _ _ _ _ _ => .linear
  | .twoDimensional _ _ _ _ _ _ _ _ => .twoDimensional

/-- The words that a full node stores, in bank-index order (30_encoding.md R101, R102). -/
def nodeWordList (k : Cfg) (n : Node) : List Word := (kindRegs k (nodeKind n)).map (imgWord (nodeImage n))

end Sys2Proof.Machine
end

