-- ==== Sys2Proof/Machine/NodeQueue.lean ====
section
/-! DEFINITION. Queues of nodes: records, link words, compaction and expansion of one node (42_queue.md). An image of
a node is its eight words in bank-index order (10_state.md R21), zero where the kind has no register. -/

namespace Sys2Proof.Machine

/-! ## Queue records (10_state.md R45, R46; names: log 24) -/

def findKey {α : Type} : List (Word × α) → Word → Option α
  | [], _ => none
  | (k, v) :: l, q => if k = q then some v else findKey l q

/-- The entry of a key replaced, or added at the end. -/
def putKey {α : Type} : List (Word × α) → Word → α → List (Word × α)
  | [], q, v => [(q, v)]
  | (k, w) :: l, q, v => if k = q then (q, v) :: l else (k, w) :: putKey l q v

def State.queue (s : State) (q : Word) : Option Queue := findKey s.queues q

def State.putQueue (s : State) (q : Word) (v : Queue) : State := { s with queues := putKey s.queues q v }

def queueAddrs (v : Queue) : List Word := v.nodes.map QNode.addr

/-- `node_count` (10_state.md R45). -/
def nodeCount (v : Queue) : Nat := v.nodes.length

/-- The node at an address has the queue's kind, as far as it has a tag (42_queue.md R194; log 24). -/
def tagAllows (s : State) (kind : Kind) (a : Word) : Bool :=
  match findKey s.nodeKinds a with
  | none => true
  | some k => k == kind

/-- The preconditions of R191 and R194 over a list of node addresses. -/
def nodesLegal (s : State) (kind : Kind) (as : List Word) : Bool :=
  addressesLegal (nodeWords s.cfg kind) as && as.all (tagAllows s kind)

/-! ## Link words of a queue -/

/-- The address of the link word of a full node (30_encoding.md R101, R102). -/
def staticLinkAddr (k : Cfg) (kind : Kind) (a : Word) : Word := wordAddr a (nodeWords k kind - 1)

/-- The link word that R192 requires of node `i`. -/
def staticLinkWord (k : Cfg) (v : Queue) (i : Nat) : Word :=
  match v.nodes[i + 1]? with
  | some n => linkStatic k v.kind n.addr
  | none =>
    match v.fc with
    | some f => linkStatic k v.kind f
    | none => linkEndWord

/-- The write of node `i`'s link word in a static queue; no node, no write. -/
def staticLinkWrite (k : Cfg) (v : Queue) (i : Nat) : List HostOp :=
  match v.nodes[i]? with
  | some n => [.memWrite (staticLinkAddr k v.kind n.addr) (staticLinkWord k v i)]
  | none => []

/-- The mask of the closing link (R202). -/
def closingMask (k : Cfg) (v : Queue) (f : Word) : BitVec 8 :=
  if k.closingAll then updAll k v.kind
  else
    match v.nodes.find? fun n => n.addr == f with
    | some n => n.present
    | none => updAll k v.kind

/-- The link word that the second pass writes into node `i` (R201). -/
def dynamicLinkWord (k : Cfg) (v : Queue) (i : Nat) : Word :=
  match v.nodes[i + 1]? with
  | some n => mkLink k.layout n.present n.addr
  | none =>
    match v.fc with
    | some f => mkLink k.layout (closingMask k v f) f
    | none => linkEndWord

/-- The address of the last stored word of a node (R200, R201). -/
def storedLinkAddr (k : Cfg) (kind : Kind) (n : QNode) : Word := wordAddr n.addr (maskCount k kind n.present - 1)

/-- The second pass (R201): one write per node, in list order. -/
def secondPass (k : Cfg) (v : Queue) : List HostOp :=
  (List.range v.nodes.length).flatMap fun i =>
    match v.nodes[i]? with
    | some n => [.memWrite (storedLinkAddr k v.kind n) (dynamicLinkWord k v i)]
    | none => []

/-! ## Images -/

/-- The bank indices that a mask stores in a node of a kind, in bank-index order (R200). -/
def storedRegs (k : Cfg) (kind : Kind) (m : BitVec 8) : List Nat := (kindRegs k kind).filter fun i => m.getLsbD i

/-- The full image of a node from its stored words and the context (R203): a register that the mask lacks is
re-inserted from the context, a register that the kind's nodes do not store is 0. The link word of a node whose mask
lacks it is not known (93_implementation_defined.md U8). -/
def expandImage (k : Cfg) (kind : Kind) (m : BitVec 8) (ws ctx : List Word) : List Word :=
  (List.range 8).map fun i =>
    if (kindRegs k kind).contains i then
      if m.getLsbD i then imgWord ws ((storedRegs k kind m).filter fun j => decide (j < i)).length else imgWord ctx i
    else 0

/-- The image of a full node's words (30_encoding.md R101, R102). -/
def imageOf (k : Cfg) (kind : Kind) (ws : List Word) : List Word := expandImage k kind (updAll k kind) ws []

/-- The words of an image in the static layout of its kind, without the link word (R203). -/
def imageRegs (k : Cfg) (kind : Kind) (img : List Word) : List Word := (kindRegs k kind).dropLast.map (imgWord img)

/-- A register of a node is stored: it differs from the context, or it is CSAR, or it is the link word
(R197 to R199). -/
def keeps (ctx img : List Word) (i : Nat) : Bool := i == 3 || i == 7 || imgWord img i != imgWord ctx i

/-- `present[k]` (R197). -/
def presentMask (k : Cfg) (kind : Kind) (ctx img : List Word) : BitVec 8 :=
  ((kindRegs k kind).filter (keeps ctx img)).foldl (fun m i => m ||| (1#8 <<< i)) 0

/-- The stored words of a node (R200), with a given link word. -/
def storedWords (k : Cfg) (kind : Kind) (m : BitVec 8) (img : List Word) (link : Word) : List Word :=
  (storedRegs k kind m).map fun i => if i = 7 then link else imgWord img i

/-- The whole static footprint of a compacted node: stored words, then zeros (R200). Before the second pass the link
word holds the mask of the node's own stored words (R201; log 26). -/
def compactWords (k : Cfg) (kind : Kind) (m : BitVec 8) (img : List Word) : List Word :=
  storedWords k kind m img (mkLink k.layout m (imgWord img 7))
    ++ List.replicate (nodeWords k kind - (storedRegs k kind m).length) 0

/-- One word write per word, from an address up. DESIGN CHOICE (log 56): the words of one node are written in this order. -/
def writeOps (a : Word) (ws : List Word) : List HostOp :=
  (List.range ws.length).map fun i => .memWrite (wordAddr a i) (imgWord ws i)

/-- A node whose words are any value (93_implementation_defined.md U8; log 27), from the counter of free values. -/
def freeImage (k : Cfg) (kind : Kind) (n : Nat) : List Word :=
  (List.range 8).map fun i => if (kindRegs k kind).contains i then Config.freeWord (n + i) else 0

/-- The writes that end `convert_to_static` (R203): the registers of every node, then every link word. DESIGN CHOICE
(log 56): the registers of one node in ascending order of address, one write each. -/
def expandWrites (k : Cfg) (v : Queue) (imgs : List (List Word)) : List HostOp :=
  ((v.nodes.zip imgs).flatMap fun p => writeOps p.1.addr (imageRegs k v.kind p.2))
    ++ (List.range v.nodes.length).flatMap fun i => staticLinkWrite k v i

/-- Full nodes of a kind at given addresses. -/
def fullNodes (k : Cfg) (kind : Kind) (as : List Word) : List QNode := as.map fun a => ⟨a, updAll k kind⟩

/-- The images of consecutive full nodes from the words read. -/
def splitImages (k : Cfg) (kind : Kind) : List Word → List Word → List (Word × List Word)
  | [], _ => []
  | a :: as, ws =>
    (a, imageOf k kind (ws.take (nodeWords k kind))) :: splitImages k kind as (ws.drop (nodeWords k kind))

/-- The addresses of consecutive words. DESIGN CHOICE (log 56): the words of one node are read in this order. -/
def wordAddrs (a : Word) (n : Nat) : List Word := (List.range n).map fun i => wordAddr a i

end Sys2Proof.Machine
end

