-- ==== Sys2Proof/Machine/HostOps.lean ====
section
/-! DEFINITION. Host operations: the single accesses that host commands, the blocking waits and the interrupt handler
are made of, and how a host agent runs a list of them (20_memory.md R86, 40_register_file.md R154; log 2). -/

namespace Sys2Proof.Machine

/-- What one host operation does. -/
inductive OpResult where
  /-- done: the operations that follow at once, before the rest -/
  | go (ops : List HostOp) (s : State)
  /-- the host lets the other agents move, with operations left (44_transfer_engine.md R267) -/
  | yield (ops : List HostOp) (s : State)
  /-- the command ends early: so many of its later operations are dropped, the given ones done instead -/
  | skip (left : Nat) (ops : List HostOp) (s : State)
  | fault (f : Fault)
  | refused (r : Refusal)
  deriving DecidableEq, Repr, Inhabited

/-! ## Getters (43_channel_config.md R228) -/

/-- The registers a getter reads, one access each, in this order. DESIGN CHOICE (log 48): the order of the three reads of
`get_repeat_block` (R246), bank-index order, and of the two of `get_security` (R249), SecAttr first. -/
def getterRegs : Getter → List Reg
  | .reg => []
  | .directConfig => [.ctr1, .ctr2, .ccr]
  | .priority => [.ccr]
  | .hwMode => [.ctr2]
  | .port => [.ctr1]
  | .burst => [.ctr1]
  | .trigger => [.ctr2]
  | .dataHandling => [.ctr1]
  | .repeatBlock => [.cbr1, .ctr3, .cbr2]
  | .security => [.secAttr, .ctr1]
  | .remaining => [.cbr1]

/-- The trigger getter decodes the reserved polarity as `None` (43_channel_config.md R240). -/
def getterTrigger (L : Layout) (ctr2 : Word) : Trigger :=
  let t := triggerOf L ctr2
  if t.polarity = .reserved then { t with polarity := .none } else t

/-- What a getter returns for the words it read (43_channel_config.md R225 to R255). -/
def getterValue (L : Layout) (g : Getter) (ws : List Word) (blockSize : Word) : Value :=
  let w := imgWord ws
  match g with
  | .reg => .word (w 0)
  | .directConfig => .directConfig (directConfigOf L (w 0) (w 1) (Fld.prio.get L (w 2)))
  | .priority => .priority (Fld.prio.get L (w 0))
  | .hwMode => .hwMode (hwModeOf (Fld.blockReq.test L (w 0)))
  | .port => .port (portOf (Fld.srcPort.test L (w 0))) (portOf (Fld.dstPort.test L (w 0)))
  | .burst => .burst (Fld.srcBurst.get L (w 0) + 1) (Fld.dstBurst.get L (w 0) + 1)
  | .trigger => .trigger (getterTrigger L (w 0))
  | .dataHandling => .dataHandling (dataHandlingOf L (w 0))
  | .repeatBlock => .repeatBlock (repeatBlockOf L (w 0) (w 1) (w 2))
  | .security =>
      .security ⟨Fld.chSec.test L (w 0), Fld.chPriv.test L (w 0), Fld.srcSec.test L (w 1), Fld.dstSec.test L (w 1)⟩
  | .remaining => .word (Fld.bndt.get L (w 0) + Fld.brc.get L (w 0) * blockSize)

/-- What a handle getter returns (43_channel_config.md R252 to R254). -/
def handleValue (g : HandleGetter) (h : Handle) : Value :=
  match g with
  | .userData => .word h.userData
  | .state => .life h.state
  | .lastError => .lastError h.lastError

/-! ## Register writes (40_register_file.md R142, R143) -/

/-- The fields of CCR in the order in which one write of several takes effect. DESIGN CHOICE (log 17). -/
def ccrOrder : List Fld := [.en, .reset, .susp, .tcie, .htie, .dteie, .uleie, .useie, .suspie, .toie, .prio]

/-- The enables with the one of a CCR field set or cleared (10_state.md R32). -/
def ieField (f : Fld) (on : Bool) (ie : FlagSet) : FlagSet :=
  match f with
  | .tcie => { ie with tc := on }
  | .htie => { ie with ht := on }
  | .dteie => { ie with dte := on }
  | .uleie => { ie with ule := on }
  | .useie => { ie with use := on }
  | .suspie => { ie with suspf := on }
  | .toie => { ie with tov := on }
  | _ => ie

/-- The effect of writing one field of CCR (R142, R143): 1 to EN enables and 0 does nothing, 1 to RESET resets, 1 to
SUSP requests a suspend and 0 withdraws it (log 17). -/
def ccrFieldWrite (k : Cfg) (f : Fld) (v : Word) (c : Channel) : Channel :=
  match f with
  | .en => if v.getLsbD 0 then chEnable k c else c
  | .reset => if v.getLsbD 0 then chReset c else c
  | .susp => if v.getLsbD 0 then chSuspReq c else chResume c
  | .prio => chSetPrio k.layout v c
  | f => chIeWrite (ieField f (v.getLsbD 0) c.ccr.ie) c

/-- One write of the named fields of CCR. -/
def ccrUpdate (k : Cfg) (fs : List (Fld × Word)) (c : Channel) : Channel :=
  ccrOrder.foldl (fun c f => match fs.lookup f with | some v => ccrFieldWrite k f v c | none => c) c

/-- A whole-word write of CCR names every field (R143). -/
def ccrWordWrite (k : Cfg) (w : Word) (c : Channel) : Channel :=
  ccrUpdate k (ccrOrder.map fun f => (f, f.get k.layout w)) c

/-- One 32-bit write of a register (R143, R146, R155). -/
def writeReg (k : Cfg) (r : Reg) (w : Word) : Channel → Channel := fun c =>
  match r with
  | .ccr => ccrWordWrite k w c
  | .csr => c
  | .cfcr => chFlagClear (FlagSet.ofWord k.layout w) c
  | .secAttr => if k.features.security then { c with secAttr := secAttrOf k.layout w } else c
  | _ => linkWrite k.layout c r w

/-- A host write to a link register or CLBAR of an enabled channel is refused (93_implementation_defined.md U3;
log 18). -/
def hostRegWrite (i : Nat) (r : Reg) (w : Word) (s : State) : OpResult :=
  if isLinkReg r && (s.chan i).ccr.en then .refused .linkWriteWhileEnabled
  else .go [] (s.onChan i (writeReg s.cfg r w))

/-! ## Handle fields -/

def onHandle (f : Handle → Handle) (c : Channel) : Channel := { c with h := f c.h }

def setCallbackSlot (slot : Slot) (f : Word) (cb : Callbacks) : Callbacks :=
  match slot with
  | .half => { cb with half := f }
  | .complete => { cb with complete := f }
  | .abort => { cb with abort := f }
  | .suspend => { cb with suspend := f }
  | .error => { cb with error := f }

def callbackSlot (slot : Slot) (cb : Callbacks) : Word :=
  match slot with
  | .half => cb.half
  | .complete => cb.complete
  | .abort => cb.abort
  | .suspend => cb.suspend
  | .error => cb.error

/-- The commands of a callback body; identifier 0 is the no-op default (93_implementation_defined.md U14; log 23). -/
def bodyOps (s : State) (f : Word) : List HostOp :=
  if f = 0 then [] else ((findKey s.cfg.bodies f).getD []).map HostOp.call

/-! ## Waits (44_transfer_engine.md R267 to R279) -/

/-- `C(s)`, the condition of a wait over the status. -/
def waitMet (k : WaitKind) (sr : Csr) : Bool :=
  match k with
  | .suspend => sr.flags.suspf
  | .abort _ => sr.flags.suspf || sr.idle
  | .poll .halfComplete => flagsAny (errorsOf sr.flags) || sr.flags.ht
  | .poll .fullComplete => flagsAny (errorsOf sr.flags) || sr.flags.tc

/-- `elapsed(t0) > T`, or `>=` when the comparison is not strict (R267, 00_scope.md R7). -/
def budgetSpent (strict : Bool) (tick t0 budget : Word) : Bool :=
  if strict then decide (budget.toNat < (tick - t0).toNat) else decide (budget.toNat ≤ (tick - t0).toNat)

/-- The end of an abort wait (R273); inside a poll its result is dropped and the poll returns `Timeout` (R279). -/
def abortEnd (ch : Nat) (inPoll : Bool) (r : Result) : List HostOp :=
  [.chReset ch, .flagClear ch allFlags, .setState ch .idle, .ret (plainReply (if inPoll then .timeout else r))]

/-- What a command does when its wait's condition holds (R268, R273, R277). -/
def metOps (ch : Nat) (k : WaitKind) (sr : Csr) : List HostOp :=
  match k with
  | .suspend => [.setState ch .suspend, .ret (plainReply .ok)]
  | .abort inPoll => abortEnd ch inPoll .ok
  | .poll level =>
    if flagsAny (errorsOf sr.flags) then
      [.orError ch (errbits (errorsOf sr.flags)), .chReset ch, .flagClear ch allFlags, .setState ch .idle,
       .ret (plainReply .error)]
    else
      match level with
      | .halfComplete => [.flagClear ch flagHT, .ret (plainReply .ok)]
      | .fullComplete => [.flagClear ch (flagsOr flagHT flagTC), .setState ch .idle, .ret (plainReply .ok)]

/-- What a command does when its budget is spent (R268, R273, R277, R279). -/
def expiredOps (ch : Nat) (k : WaitKind) (sr : Csr) : List HostOp :=
  match k with
  | .suspend =>
    if sr.idle then [.chReset ch, .setState ch .idle, .ret (plainReply .error)] else [.ret (plainReply .error)]
  | .abort inPoll => abortEnd ch inPoll .error
  | .poll _ => [.abortGuard ch]

/-- `abort` from its idle test on (R273), inside a poll or not (R279). -/
def abortOps (ch : Nat) (inPoll idle : Bool) (budget : Word) : List HostOp :=
  if idle then [.ret (plainReply (if inPoll then .timeout else .error))]
  else [.setState ch .abort, .suspReq ch, .waitStart ch (.abort inPoll) budget]

/-- `abort_it` from its idle test on (R275). -/
def abortItOps (ch : Nat) (idle : Bool) : List HostOp :=
  if idle then [.ret (plainReply .error)]
  else [.setState ch .abort, .ieSet ch flagSUSPF, .suspReq ch, .ret (plainReply .ok)]

/-! ## The handler (60_exceptions.md R360 to R366) -/

/-- The branches for a snapshot of CSR and CCR (R360). -/
def handlerOps (ch : Nat) (sr : Csr) (cr : Ccr) : List HostOp :=
  let act := actingFlags sr cr
  (if act.ht then [.flagClear ch flagHT, .emit ch .half] else [])
  ++ (if act.tc then [.flagClear ch flagTC, .idleTest ch]
      else if act.suspf then [.flagClear ch flagSUSPF, .suspendedTest ch]
      else if flagsAny (errorsOf act) then
        [.orError ch (errbits (errorsOf act)), .flagClear ch (errorsOf act), .chReset ch, .setState ch .idle,
         .emit ch .error, .isrReturn]
      else [.isrReturn])

/-- The rest of the full-complete branch (R364), after its idle test. -/
def completeOps (ch : Nat) (idle : Bool) : List HostOp :=
  if idle then [.ieWrite ch FlagSet.empty, .setState ch .idle, .emit ch .complete, .isrReturn]
  else [.emit ch .complete, .isrReturn]

/-- The rest of the suspended branch (R365), after its state test. -/
def suspendedOps (ch : Nat) (aborting : Bool) : List HostOp :=
  if aborting then
    [.chReset ch, .ieWrite ch FlagSet.empty, .setState ch .idle, .emit ch .abort, .isrReturn]
  else [.setState ch .suspend, .emit ch .suspend, .isrReturn]

/-! ## Conversions (42_queue.md R197, R203) -/

/-- The end of `convert_to_static`: writes, record, result (R203). -/
def expandEnd (k : Cfg) (q : Word) (v : Queue) (imgs : List (List Word)) : List HostOp :=
  expandWrites k v imgs
    ++ [.setQueue q { v with format := .static, nodes := fullNodes k v.kind (queueAddrs v) }, .ret (plainReply .ok)]

/-- `n` free images from the counter of free values (log 27). -/
def freeImages (k : Cfg) (kind : Kind) (fresh n : Nat) : List (List Word) :=
  (List.range n).map fun i => freeImage k kind (fresh + 8 * i)

/-- The next node of `convert_to_static`: read it by its mask (R203); when the mask lacks `U_CLLR` it and all later
nodes are any value (93_implementation_defined.md U8; log 27). -/
def expandNext (q : Word) (v : Queue) (x : Expand) (s : State) : OpResult :=
  match x.left with
  | [] => .go (expandEnd s.cfg q v x.done) s
  | a :: _ =>
    if x.mask.getLsbD 7 then
      .go [.readWords (wordAddrs a (storedRegs s.cfg v.kind x.mask).length) [] (.toStatic q x)] s
    else
      .go (expandEnd s.cfg q v (x.done ++ freeImages s.cfg v.kind s.fresh x.left.length))
        { s with fresh := s.fresh + 8 * x.left.length }

/-- One node of `convert_to_dynamic`: compare with the context, store it in compact form (R197, R200). DESIGN CHOICE
(log 53): the present tags of all the nodes enter the queue record in one step after the first pass and before the second,
while the format is still static; R197 and R200 fix no instant. -/
def compactNext (k : Cfg) (q : Word) (v : Queue) (ctx : List Word) (left : List (Word × List Word))
    (done : List QNode) : List HostOp :=
  match left with
  | [] =>
    [.setQueue q { v with nodes := done }, .updateLinks q, .setQueue q { v with nodes := done, format := .dynamic },
     .ret (plainReply .ok)]
  | (a, img) :: rest =>
    let m := presentMask k v.kind ctx img
    writeOps a (compactWords k v.kind m img) ++ [.compact q img rest (done ++ [⟨a, m⟩])]

/-- What follows the last word read of a conversion. DESIGN CHOICE (log 54): a conversion to dynamic format whose record a
callback's `queue_init` emptied meanwhile ends with `InvalidParameter`, in every build. -/
def readDone (k : ReadCont) (got : List Word) (s : State) : OpResult :=
  match k with
  | .toDynamic q =>
    match s.queue q with
    | none => .go [.ret (plainReply .invalidParameter)] s
    | some v =>
      match splitImages s.cfg v.kind (queueAddrs v) got with
      | [] => .go [.ret (plainReply .invalidParameter)] s
      | (a, img) :: rest => .go [.compact q img rest [⟨a, updAll s.cfg v.kind⟩]] s
  | .toStaticHead q =>
    match s.queue q with
    | none => .go [.ret (plainReply .invalidParameter)] s
    | some v =>
      let img := imageOf s.cfg v.kind got
      expandNext q v ⟨(queueAddrs v).tail, img, linkUpd s.cfg.layout (imgWord img 7), [img]⟩ s
  | .toStatic q x =>
    match s.queue q with
    | none => .go [.ret (plainReply .invalidParameter)] s
    | some v =>
      let img := expandImage s.cfg v.kind x.mask got x.ctx
      expandNext q v ⟨x.left.tail, img, linkUpd s.cfg.layout (imgWord img 7), x.done ++ [img]⟩ s

/-! ## One host operation -/

/-- `H.LastError` exists only with `FEATURES.error_codes` (10_state.md R40). -/
def chSetError (on : Bool) (e : BitVec 4) (c : Channel) : Channel :=
  if on then onHandle (fun h => { h with lastError := e }) c else c

/-- A precondition that fails inside a command (00_scope.md R11): in a checked build the command goes on as `r` says. -/
def innerViolation (r : OpResult) (s : State) : OpResult :=
  match s.cfg.build with
  | .checked => r
  | .debug => .fault .precondition
  | .unchecked => .refused .uncheckedViolation

/-- A precondition over a handle field holds. -/
def handleTest (t : HandleTest) (h : Handle) : Bool :=
  match t with
  | .state allowed => allowed.contains h.state
  | .mode allowed => allowed.contains h.mode

/-- One host operation: the access it makes, and the operations that follow it. -/
def runOp (op : HostOp) (s : State) : OpResult :=
  match op with
  | .ret r => .go [] (s.answer r)
  | .require i t left =>
    if handleTest t (s.chan i).h then .go [] s
    else innerViolation (.skip left [.ret (plainReply .invalidParameter)] s) s
  | .busyTest i left =>
    if (s.chan i).h.state = .active then .skip left [.ret (plainReply .busy)] s else .go [] s
  | .idleOverRunning i =>
    if (s.chan i).h.state = .idle ∧ (s.chan i).ccr.en then .refused .idleOverRunning else .go [] s
  | .regWrite i r w => hostRegWrite i r w s
  | .rmw i r fs => .go [.regWrite i r (insFields s.cfg.layout fs (readReg s.cfg (s.chan i) r))] s
  | .collect i left got g =>
    match left with
    | [] => .go [.ret ⟨.ok, getterValue s.cfg.layout g got (s.chan i).h.blockSize⟩] s
    | r :: rest => .go [.collect i rest (got ++ [readReg s.cfg (s.chan i) r]) g] s
  | .answer i g => .go [.ret ⟨.ok, handleValue g (s.chan i).h⟩] s
  | .flagClear i fs => .go [] (s.onChan i (chFlagClear fs))
  | .ieWrite i fs => .go [] (s.onChan i (chIeWrite fs))
  | .ieSet i fs => .go [] (s.onChan i (chIeSet fs))
  | .setPrio i p => .go [] (s.onChan i (chSetPrio s.cfg.layout p))
  | .ccrFields i fs => .go [] (s.onChan i (ccrUpdate s.cfg fs))
  | .enable i => .go [] (s.onChan i (chEnable s.cfg))
  | .suspReq i => .go [] (s.onChan i chSuspReq)
  | .resume i => .go [] (s.onChan i chResume)
  | .chReset i => .go [] (s.onChan i chReset)
  | .setState i st => .go [] (s.onChan i (onHandle fun h => { h with state := st }))
  | .setMode i m => .go [] (s.onChan i (onHandle fun h => { h with mode := m }))
  | .setHead i a => .go [] (s.onChan i (onHandle fun h => { h with head := a }))
  | .setError i e => .go [] (s.onChan i (chSetError s.cfg.features.errorCodes e))
  | .orError i e => .go [.setError i ((s.chan i).h.lastError ||| e)] s
  | .setUserData i p => .go [] (s.onChan i (onHandle fun h => { h with userData := p }))
  | .setCallback i slot f => .go [] (s.onChan i (onHandle fun h => { h with cb := setCallbackSlot slot f h.cb }))
  | .setBlockSize i n => .go [] (s.onChan i (onHandle fun h => { h with blockSize := n }))
  | .waitStart i k budget => .go [.waitRead ⟨i, k, s.tick, budget⟩] s
  | .waitRead w =>
    if waitMet w.kind (s.chan w.ch).csr then .go (metOps w.ch w.kind (s.chan w.ch).csr) s
    else .go [.waitTick w (s.chan w.ch).csr] s
  | .waitTick w sr =>
    if budgetSpent s.cfg.timeoutStrict s.tick w.t0 w.budget then .go (expiredOps w.ch w.kind sr) s
    else .yield [.waitRead w] s
  | .abortGuard i =>
    match (s.chan i).h.state with
    | .idle | .active => .go [.abortIdle i true] s
    | _ => innerViolation (.go [.ret (plainReply .timeout)] s) s
  | .abortIdle i inPoll => .go (abortOps i inPoll (s.chan i).csr.idle s.cfg.abortTimeout) s
  | .abortItIdle i => .go (abortItOps i (s.chan i).csr.idle) s
  | .snapCsr i => .go [.snapCcr i] { s with isr := s.isr.map fun h => { h with snapCsr := some (s.chan i).csr } }
  | .snapCcr i =>
    match s.isr with
    | some h =>
      .go (handlerOps i (h.snapCsr.getD (s.chan i).csr) (s.chan i).ccr)
        { s with isr := some { h with snapCcr := some (s.chan i).ccr } }
    | none => .go [] s
  | .idleTest i => .go (completeOps i (s.chan i).csr.idle) s
  | .suspendedTest i => .go (suspendedOps i (decide ((s.chan i).h.state = .abort))) s
  | .emit i slot =>
    .go (bodyOps s (callbackSlot slot (s.chan i).h.cb)) { s with trace := s.trace ++ [.callback slot i] }
  | .call p => .yield [.call p] s
  | .isrReturn => .go [] (returnFromInterrupt s)
  | .memWrite a w => .go [] { s with mem := writeWord s.mem a w }
  | .tag a k => .go [] { s with nodeKinds := putKey s.nodeKinds a k }
  | .readWords left got k =>
    match left with
    | [] => readDone k got s
    | a :: rest => .go [.readWords rest (got ++ [readWord s.mem a]) k] s
  | .compact q ctx left done =>
    match s.queue q with
    | none => .go [.ret (plainReply .invalidParameter)] s
    | some v => .go (compactNext s.cfg q v ctx left done) s
  | .setQueue q v => .go [] (s.putQueue q v)
  | .updateLinks q =>
    match s.queue q with
    | none => .go [] s
    | some v => .go (secondPass s.cfg v) s

/-! ## Running a host context -/

/-- Host operations one after the other, at most `n` of them (log 2): what is left, and the state. -/
def runOps : Nat → List HostOp → State → Host.Outcome (List HostOp × State) Fault Refusal
  | 0, ops, s => .next (ops, s)
  | _ + 1, [], s => .next ([], s)
  | n + 1, op :: rest, s =>
    match runOp op s with
    | .go ops s' => runOps n (ops ++ rest) s'
    | .yield ops s' => .next (ops ++ rest, s')
    | .skip left ops s' => runOps n (ops ++ rest.drop left) s'
    | .fault f => .fault f
    | .refused r => .refused r

/-- The operations left of the context that runs: the handler's while one runs, else HOST-APP's. -/
def State.pending (s : State) : List HostOp :=
  match s.isr with
  | some h => h.todo
  | none => s.app.todo

/-- What is left goes back to the context that ran; a handler that has returned leaves nothing. -/
def State.putPending (s : State) (irq : Bool) (ops : List HostOp) : State :=
  if irq then { s with isr := s.isr.map fun h => { h with todo := ops } }
  else { s with app := { s.app with todo := ops } }

/-- The context that runs goes on: first the given operations, then what it had left, within the quantum. -/
def runHost (ops : List HostOp) (s : State) : Out :=
  match runOps s.quantum (ops ++ s.pending) s with
  | .next r => .next (r.2.putPending s.isr.isSome r.1)
  | .fault f => .fault f
  | .refused r => .refused r

/-- Tests of handle fields before the rest of a command, each told how many operations stand behind it. -/
def guarded (gs : List (Nat → HostOp)) (ops : List HostOp) : List HostOp :=
  gs.foldr (fun g rest => g rest.length :: rest) ops

/-- A precondition over `H.State`. -/
def stateIn (ch : ChId) (allowed : List Life) : Nat → HostOp := .require ch.toNat (.state allowed)

/-- A precondition over `H.Mode`. -/
def modeIn (ch : ChId) (allowed : List Mode) : Nat → HostOp := .require ch.toNat (.mode allowed)

/-- A command: the preconditions over its operands and its caller, then those over the handle, one access each, then
its operations (00_scope.md R9, R11; 20_memory.md R86). -/
def command (operands : Bool) (guards : List (Nat → HostOp)) (ops : List HostOp) (s : State) : Out :=
  if operands then runHost (guarded guards ops) s else violation s

/-- The caller is HOST-APP (44_transfer_engine.md R281). -/
def State.fromApp (s : State) : Bool := s.isr.isNone

end Sys2Proof.Machine
end

