-- ==== Sys2Proof/Machine/ConfigCmds.lean ====
section
/-! DEFINITION. The channel configuration commands and the handle accessors (43_channel_config.md): one meaning per
command, its preconditions and the list of its host operations. -/

namespace Sys2Proof.Machine

/-! ## Frames (43_channel_config.md R223, R228) -/

/-- The states a setter is legal in (R223). -/
def setterStates : List Life := [.init, .idle]

/-- The states in which the handle is initialised (R228). -/
def initialised : List Life := [.init, .idle, .active, .suspend, .abort]

/-- The setter frame (R223): preconditions (a) and (b), the register writes (c), `Ok`. Over a running channel it is
refused (93_implementation_defined.md U5; log 18). -/
def setter (ch : ChId) (legal : Bool) (ops : List HostOp) (s : State) : Out :=
  command (s.hasChan ch.toNat && legal) [stateIn ch setterStates]
    (.idleOverRunning ch.toNat :: ops ++ [.ret (plainReply .ok)]) s

/-- The getter frame (R228). -/
def getterFrame (ch : ChId) (legal : Bool) (ops : List HostOp) (s : State) : Out :=
  command (s.hasChan ch.toNat && legal) [stateIn ch initialised] ops s

/-- The getter frame over registers (R228). -/
def getter (ch : ChId) (legal : Bool) (g : Getter) (s : State) : Out :=
  getterFrame ch legal [.collect ch.toNat (getterRegs g) [] g] s

/-- The handle fields at their values of 10_state.md R56, `H.State` apart, in the order of `init` (R221). DESIGN CHOICE
(log 49): `deinit` writes them in this order too; R222 gives none. -/
def handleDefaults (i : Nat) : List HostOp :=
  [.setMode i .direct, .setHead i none, .setError i 0, .setUserData i 0, .setCallback i .half 0,
   .setCallback i .complete 0, .setCallback i .abort 0, .setCallback i .suspend 0, .setCallback i .error 0,
   .setBlockSize i 0]

/-! ## Life cycle of the handle -/

/-- R221 -/
def execInit (ch : ChId) (s : State) : Out :=
  command (s.hasChan ch.toNat) [stateIn ch [.reset]]
    (handleDefaults ch.toNat ++ [.setState ch.toNat .init, .ret (plainReply .ok)]) s

/-- The registers that `deinit` returns to 0 (R222). -/
def zeroRegisters (i : Nat) : List HostOp :=
  [.regWrite i .ctr1 0, .regWrite i .ctr2 0, .regWrite i .cbr1 0, .regWrite i .csar 0, .regWrite i .cdar 0,
   .regWrite i .ctr3 0, .regWrite i .cbr2 0, .regWrite i .cllr 0, .regWrite i .clbar 0, .setPrio i 0,
   .regWrite i .secAttr 0]

/-- R222 -/
def execDeinit (ch : ChId) (s : State) : Out :=
  command (s.hasChan ch.toNat) []
    ([.chReset ch.toNat, .ieWrite ch.toNat FlagSet.empty, .flagClear ch.toNat allFlags] ++ zeroRegisters ch.toNat
      ++ handleDefaults ch.toNat ++ [.setState ch.toNat .reset, .ret (plainReply .ok)]) s

/-! ## Transfer configuration -/

/-- R224 -/
def execSetConfigDirect (ch : ChId) (c : DirectConfig) (s : State) : Out :=
  setter ch (directConfigLegal s.cfg c)
    [.rmw ch.toNat .ctr1 (widthIncFields c.srcWidth c.dstWidth c.srcInc c.dstInc),
     .rmw ch.toNat .ctr2 (requestFields c.request c.direction),
     .regWrite ch.toNat .cllr 0, .setPrio ch.toNat c.priority, .setMode ch.toNat .direct, .setHead ch.toNat none,
     .setState ch.toNat .idle] s

/-- R225 -/
def execGetConfigDirect (ch : ChId) (s : State) : Out := getter ch true .directConfig s

/-- R226 -/
def execSetConfigLinkedList (ch : ChId) (p : Word) (s : State) : Out :=
  setter ch (s.cfg.features.linkedList && priorityLegal s.cfg p)
    [.setPrio ch.toNat p, .setMode ch.toNat .linkedListLinear, .setState ch.toNat .idle] s

/-- R227 -/
def execGetConfigLinkedList (ch : ChId) (s : State) : Out := getter ch true .priority s

/-! ## Sub-feature setters, resets and getters -/

/-- R229 -/
def execSetHwRequestMode (ch : ChId) (m : HwMode) (s : State) : Out :=
  setter ch true [.rmw ch.toNat .ctr2 [(.blockReq, m.code)]] s

/-- R230 -/
def execResetHwRequestMode (ch : ChId) (s : State) : Out :=
  setter ch true [.rmw ch.toNat .ctr2 [(.blockReq, HwMode.burst.code)]] s

/-- R231 -/
def execGetHwRequestMode (ch : ChId) (s : State) : Out := getter ch true .hwMode s

/-- R232 -/
def execSetPort (ch : ChId) (src dst : Port) (s : State) : Out :=
  setter ch true [.rmw ch.toNat .ctr1 (portFields src dst)] s

/-- R233 -/
def execResetPort (ch : ChId) (s : State) : Out :=
  setter ch true [.rmw ch.toNat .ctr1 (portFields .port0 .port0)] s

/-- R234 -/
def execGetPort (ch : ChId) (s : State) : Out := getter ch true .port s

/-- R235 -/
def execSetBurst (ch : ChId) (src dst : Word) (s : State) : Out :=
  setter ch (burstLegal src && burstLegal dst) [.rmw ch.toNat .ctr1 (burstFields src dst)] s

/-- R236 -/
def execResetBurst (ch : ChId) (s : State) : Out := setter ch true [.rmw ch.toNat .ctr1 (burstFields 1 1)] s

/-- R237 -/
def execGetBurst (ch : ChId) (s : State) : Out := getter ch true .burst s

/-- R238 -/
def execSetTrigger (ch : ChId) (t : Trigger) (s : State) : Out :=
  setter ch (triggerLegal s.cfg.layout t) [.rmw ch.toNat .ctr2 (triggerFields t)] s

/-- R239 -/
def execResetTrigger (ch : ChId) (s : State) : Out :=
  setter ch true [.rmw ch.toNat .ctr2 (triggerFields ⟨0, .none, .block⟩)] s

/-- R240 -/
def execGetTrigger (ch : ChId) (s : State) : Out := getter ch true .trigger s

/-- R241 -/
def execSetDataHandling (ch : ChId) (d : DataHandling) (s : State) : Out :=
  setter ch (dataHandlingLegal d) [.rmw ch.toNat .ctr1 (dataHandlingFields d)] s

/-- R242 -/
def execResetDataHandling (ch : ChId) (s : State) : Out :=
  setter ch true [.rmw ch.toNat .ctr1 (dataHandlingFields ⟨false, false, false, 0⟩)] s

/-- R243 -/
def execGetDataHandling (ch : ChId) (s : State) : Out := getter ch true .dataHandling s

/-- The three register writes of a repeat-block setting, in bank-index order (R244). -/
def repeatBlockWrites (i : Nat) (r : RepeatBlock) : List HostOp :=
  [.rmw i .cbr1 (rbCbr1Fields r), .rmw i .ctr3 (rbCtr3Fields r), .rmw i .cbr2 (rbCbr2Fields r)]

/-- R244 -/
def execSetRepeatBlock (ch : ChId) (r : RepeatBlock) (s : State) : Out :=
  setter ch ((s.chan ch.toNat).twoD && repeatBlockLegal r) (repeatBlockWrites ch.toNat r) s

/-- R245 -/
def execResetRepeatBlock (ch : ChId) (s : State) : Out :=
  setter ch (s.chan ch.toNat).twoD (repeatBlockWrites ch.toNat rbDefault) s

/-- R246 -/
def execGetRepeatBlock (ch : ChId) (s : State) : Out := getter ch true .repeatBlock s

/-- The writes of a security setting, one for each register (R247, R155, 20_memory.md R84). -/
def securityWrites (i : Nat) (x : Security) : List HostOp :=
  [.rmw i .secAttr [(.chSec, .ofBool x.chSec), (.chPriv, .ofBool x.chPriv)],
   .rmw i .ctr1 (sideSecFields x.srcSec x.dstSec)]

/-- R247 -/
def execSetSecurity (ch : ChId) (x : Security) (s : State) : Out :=
  setter ch s.cfg.features.security (securityWrites ch.toNat x) s

/-- R248 -/
def execResetSecurity (ch : ChId) (s : State) : Out :=
  setter ch s.cfg.features.security (securityWrites ch.toNat ⟨false, false, false, false⟩) s

/-- R249 -/
def execGetSecurity (ch : ChId) (s : State) : Out := getter ch s.cfg.features.security .security s

/-! ## Handle accessors -/

/-- R250: a setter of the handle alone. It writes no register, so that it is legal over a running channel (log 18). -/
def execRegisterCallback (ch : ChId) (slot : Slot) (f : Word) (s : State) : Out :=
  command (s.hasChan ch.toNat) [stateIn ch setterStates]
    [.setCallback ch.toNat slot f, .ret (plainReply .ok)] s

/-- R251 -/
def execSetUserData (ch : ChId) (p : Word) (s : State) : Out :=
  getterFrame ch s.cfg.features.userData [.setUserData ch.toNat p, .ret (plainReply .ok)] s

/-- R252. DESIGN CHOICE (log 46): with `FEATURES.user_data` off, where 10_state.md R41 says that the field is absent,
the command is a precondition violation. -/
def execGetUserData (ch : ChId) (s : State) : Out :=
  getterFrame ch s.cfg.features.userData [.answer ch.toNat .userData] s

/-- R253 -/
def execGetState (ch : ChId) (s : State) : Out := command (s.hasChan ch.toNat) [] [.answer ch.toNat .state] s

/-- R254 -/
def execGetLastError (ch : ChId) (s : State) : Out :=
  getterFrame ch s.cfg.features.errorCodes [.answer ch.toNat .lastError] s

/-- R255 -/
def execGetRemainingBytes (ch : ChId) (s : State) : Out := getter ch true .remaining s

end Sys2Proof.Machine
end

