-- ==== Sys2Proof/Machine/EngineSteps.lean ====
section
/-! DEFINITION. The steps of the engine and the arbiter as instructions (45_channel_engine.md, 46_arbiter.md), the node
formats (30_encoding.md R101 to R103) and `link_load` (40_register_file.md R150). A step that is not enabled leaves
the state as it is (log 12, log 34); the rows that are parts of another step are that part alone (log 13). -/

namespace Sys2Proof.Machine

/-- A part of an engine step, where its condition holds. -/
def partStep (ch : ChId) (enabled : Channel → Bool) (f : Channel → Channel) (s : State) : Out :=
  .next (if s.hasChan ch.toNat && enabled (s.chan ch.toNat) then s.onChan ch.toNat f else s)

/-- `E.START` (R305), on a channel that has been enabled. -/
def execEStart (ch : ChId) (s : State) : Out := partStep ch (fun c => c.ccr.en) (engineStart s.cfg) s

/-- `E.DATA` (R308). -/
def execEData (ch : ChId) (s : State) : Out := .next (takeData ch.toNat s)

/-- `E.BLOCK_END` (R313): the block's bytes are all moved. -/
def execEBlockEnd (ch : ChId) (s : State) : Out :=
  partStep ch (fun c => running c && !c.hid.linkPending && decide (bndtOf s.cfg.layout c = 0)) (blockEnd s.cfg) s

/-- `E.COMPLETE` (R314): the last block is done and there is no next node. -/
def execEComplete (ch : ChId) (s : State) : Out :=
  partStep ch
    (fun c => running c && decide (bndtOf s.cfg.layout c = 0) && decide (brcOf s.cfg.layout c = 0) && c.cllr == 0)
    (engineComplete s.cfg.layout) s

/-- `E.LINK` (R316). -/
def execELink (ch : ChId) (s : State) : Out := .next (takeLink ch.toNat s)

/-- `E.SUSP_ACK` (R326). -/
def execESuspAck (ch : ChId) (s : State) : Out :=
  .next (if ackEnabled s ch.toNat then s.onChan ch.toNat chAck else s)

/-- `E.RAISE_TO` (R324). -/
def execERaiseTo (ch : ChId) (s : State) : Out :=
  .next (if overrunEnabled s ch.toNat then s.onChan ch.toNat (chRaise flagTO) else s)

/-- `E.RAISE_DTE` (R321): the data step that an access of it is refused in. -/
def execERaiseDte (ch : ChId) (s : State) : Out :=
  .next (if dataEnabled s ch.toNat && (dataAccess ch.toNat s).1.isNone then dataStep ch.toNat s else s)

/-- `E.RAISE_ULE` (R322): the link step whose fetch fails. -/
def execERaiseUle (ch : ChId) (s : State) : Out :=
  .next (if linkEnabled s ch.toNat && (linkLoad ch.toNat s).isNone then linkStep ch.toNat s else s)

/-- `E.RAISE_USE` (R323): the link step whose node is invalid. -/
def execERaiseUse (ch : ChId) (s : State) : Out :=
  let i := ch.toNat
  let s' := linkStep i s
  .next (if linkEnabled s i && (linkLoad i s).isSome && !(s'.chan i).ccr.en then s' else s)

/-- `link_load` (40_register_file.md R150), performed by the engine of a running channel (log 30). -/
def execLinkLoad (ch : ChId) (s : State) : Out :=
  .next
    (if s.hasChan ch.toNat && running (s.chan ch.toNat) then
      match linkLoad ch.toNat s with
      | none => s.onChan ch.toNat (chRaiseFatal flagULE)
      | some c => s.setChan ch.toNat c
    else s)

/-- A node fetched through the update mask that CLLR holds (30_encoding.md R107; log 29). -/
def execNode (ch : ChId) (upd : BitVec 8) (s : State) : State :=
  if linkUpd s.cfg.layout (s.chan ch.toNat).cllr = upd then takeLink ch.toNat s else s

/-- `N.LIN.S` (30_encoding.md R101). -/
def execNLinS (ch : ChId) (upd : BitVec 8) (s : State) : Out := .next (execNode ch upd s)

/-- `N.2D.S` (30_encoding.md R102). -/
def execN2dS (ch : ChId) (upd : BitVec 8) (s : State) : Out := .next (execNode ch upd s)

/-- `N.LIN.D` (30_encoding.md R103). -/
def execNLinD (ch : ChId) (upd : BitVec 8) (s : State) : Out := .next (execNode ch upd s)

/-- `N.2D.D` (30_encoding.md R103). -/
def execN2dD (ch : ChId) (upd : BitVec 8) (s : State) : Out := .next (execNode ch upd s)

/-- `A.GRANT` (46_arbiter.md R343): a wanting channel is granted and takes its link step or its data step
(log 14). -/
def execAGrant (ch : ChId) (s : State) : Out :=
  .next (if (s.chan ch.toNat).hid.linkPending then takeLink ch.toNat s else takeData ch.toNat s)

end Sys2Proof.Machine
end

