-- ==== Sys2Proof/Machine/Micro.lean ====
section
/-! DEFINITION. The register-bus micro-operations issued on their own (40_register_file.md) and the link words written
to CLLR (30_encoding.md R104, R105; log 28). -/

namespace Sys2Proof.Machine

/-- A micro-operation on an existing channel (log 30, log 34). -/
def micro (ch : ChId) (ops : List HostOp) (s : State) : Out := command (s.hasChan ch.toNat) [] ops s

/-- A micro-operation that returns no value answers `Ok` (log 30). -/
def microOk (ch : ChId) (ops : List HostOp) (s : State) : Out := micro ch (ops ++ [.ret (plainReply .ok)]) s

/-- R141 -/
def execRegRead (ch : ChId) (r : Reg) (s : State) : Out := micro ch [.collect ch.toNat [r] [] .reg] s

/-- The accesses of a write of named fields of a register: those of CCR in one atomic write (R142; log 17), those of
any other register in a read and one write of the word (R142, R145). -/
def fieldOps (ch : ChId) (r : Reg) (fs : List (Fld × Word)) : List HostOp :=
  if r = .ccr then [.ccrFields ch.toNat fs] else [.rmw ch.toNat r fs]

/-- R142 -/
def execFieldWrite (ch : ChId) (f : Fld) (v : Word) (s : State) : Out := microOk ch (fieldOps ch f.reg [(f, v)]) s

/-- R143 -/
def execRegWrite (ch : ChId) (r : Reg) (w : Word) (s : State) : Out := microOk ch [.regWrite ch.toNat r w] s

/-- R145 -/
def execCtrlWordWrite (ch : ChId) (r : Reg) (fs : List (Fld × Word)) (s : State) : Out :=
  microOk ch (fieldOps ch r fs) s

/-- R146 -/
def execFlagClear (ch : ChId) (fs : FlagSet) (s : State) : Out := microOk ch [.flagClear ch.toNat fs] s

/-- R147 -/
def execIeWrite (ch : ChId) (fs : FlagSet) (s : State) : Out := microOk ch [.ieWrite ch.toNat fs] s

/-- R147 -/
def execIeSet (ch : ChId) (fs : FlagSet) (s : State) : Out := microOk ch [.ieSet ch.toNat fs] s

/-- R148 -/
def execHwEnable (ch : ChId) (s : State) : Out := microOk ch [.enable ch.toNat] s

/-- R149 -/
def execStatus (ch : ChId) (s : State) : Out := micro ch [.collect ch.toNat [.csr] [] .reg] s

/-- R152 -/
def execHwSuspendReq (ch : ChId) (s : State) : Out := microOk ch [.suspReq ch.toNat] s

/-- R153 -/
def execHwResume (ch : ChId) (s : State) : Out := microOk ch [.resume ch.toNat] s

/-- R156 -/
def execHwReset (ch : ChId) (s : State) : Out := microOk ch [.chReset ch.toNat] s

/-! ## Link words -/

/-- A link word written to CLLR as the link of the node to come (R104; log 28). -/
def execLink (ch : ChId) (upd : BitVec 8) (la : BitVec 14) (s : State) : Out :=
  microOk ch [.regWrite ch.toNat .cllr (linkWordOf s.cfg.layout upd la)] s

/-- `LINK_END` (R105). -/
def execLinkEnd (ch : ChId) (s : State) : Out := microOk ch [.regWrite ch.toNat .cllr linkEndWord] s

/-- `LINK_STATIC(Linear, ·)` (R105). -/
def execLinkStaticLinear (ch : ChId) (la : BitVec 14) (s : State) : Out :=
  microOk ch [.regWrite ch.toNat .cllr (linkWordOf s.cfg.layout (updAll s.cfg .linear) la)] s

/-- `LINK_STATIC(TwoDimensional, ·)` (R105). -/
def execLinkStaticTwoDimensional (ch : ChId) (la : BitVec 14) (s : State) : Out :=
  microOk ch [.regWrite ch.toNat .cllr (linkWordOf s.cfg.layout (updAll s.cfg .twoDimensional) la)] s

/-- `LINK_DYNAMIC(mask, ·)` (R105): the mask always has `U_CLLR`. -/
def execLinkDynamic (ch : ChId) (upd : BitVec 7) (la : BitVec 14) (s : State) : Out :=
  microOk ch [.regWrite ch.toNat .cllr (linkWordOf s.cfg.layout (1#1 ++ upd) la)] s

end Sys2Proof.Machine
end

