-- ==== Sys2Proof/Machine/QueueCmds.lean ====
section
/-! DEFINITION. The codec commands (41_node_codec.md) and the queue commands (42_queue.md). -/

namespace Sys2Proof.Machine

/-! ## Codec -/

/-- `fill_node` (41_node_codec.md R174): total, no exception. -/
def execFillNode (kind : Kind) (c : NodeConfig) (s : State) : Out :=
  runHost [.ret ⟨.ok, .node (fillNode s.cfg kind c)⟩] s

/-- `decode_node` (41_node_codec.md R177): always succeeds. -/
def execDecodeNode (n : Node) (s : State) : Out :=
  runHost [.ret ⟨.ok, .nodeConfig (nodeToConfig s.cfg.layout n).1 (nodeToConfig s.cfg.layout n).2⟩] s

/-! ## Frames -/

/-- A command on an existing queue record; no record of that name is a violation (log 24). -/
def withQueue (q : Word) (s : State) (k : Queue → Out) : Out :=
  match s.queue q with
  | none => violation s
  | some v => k v

/-- The preconditions of a structural operation that leaves the node list `as` (42_queue.md section 4). -/
def editable (s : State) (v : Queue) (as : List Word) : Bool :=
  v.format == .static && nodesLegal s v.kind (queueAddrs v) && nodesLegal s v.kind as

/-- The preconditions of a conversion from format `f` (R191, R194, R195; R208: not of an empty queue). -/
def convertible (s : State) (v : Queue) (f : Format) : Bool :=
  v.format == f && decide (1 ≤ nodeCount v) && nodesLegal s v.kind (queueAddrs v)

/-! ## Conversions -/

/-- R197. DESIGN CHOICE (log 56): the words of one node are read and written in ascending order of address, one access
each. -/
def execConvertToDynamic (q : Word) (s : State) : Out :=
  withQueue q s fun v =>
    command (convertible s v .static) []
      [.readWords ((queueAddrs v).flatMap fun a => wordAddrs a (nodeWords s.cfg v.kind)) [] (.toDynamic q)] s

/-- R203. DESIGN CHOICE (log 56): the words of the head are read, and those of each node written, in ascending order of
address, one access each. -/
def execConvertToStatic (q : Word) (s : State) : Out :=
  withQueue q s fun v =>
    command (convertible s v .dynamic) []
      [.readWords (wordAddrs ((queueAddrs v).headD 0) (nodeWords s.cfg v.kind)) [] (.toStaticHead q)] s

/-- R201; alone it acts on a queue that R197 has compacted (log 25). -/
def execUpdateDynamicQueueLinks (q : Word) (s : State) : Out :=
  withQueue q s fun v => command (convertible s v .dynamic) [] [.updateLinks q, .ret (plainReply .ok)] s

/-! ## Structural operations (corner cases: log 40) -/

/-- R208. DESIGN CHOICE (log 40): an existing record of that name is replaced whatever its format, dynamic too, although
the text before R208 asks for a static queue of every structural operation. -/
def execQueueInit (q : Word) (kind : Kind) (s : State) : Out :=
  runHost [.setQueue q ⟨kind, .static, [], none⟩, .ret (plainReply .ok)] s

/-- The node list with a full node at `pos`. -/
def insertNode (k : Cfg) (v : Queue) (pos : Nat) (a : Word) : Queue :=
  { v with nodes := v.nodes.take pos ++ [⟨a, updAll k v.kind⟩] ++ v.nodes.drop pos }

/-- The writes of an insertion: the predecessor's link, then the new node's (R209). -/
def insertWrites (k : Cfg) (v : Queue) (pos : Nat) : List HostOp :=
  (if pos = 0 then [] else staticLinkWrite k v (pos - 1)) ++ staticLinkWrite k v pos

/-- R209. DESIGN CHOICE (log 40): the record and the kind tag change after the link words. -/
def execQueueInsert (q pos a : Word) (s : State) : Out :=
  withQueue q s fun v =>
    let v' := insertNode s.cfg v pos.toNat a
    command (decide (pos.toNat ≤ nodeCount v) && editable s v (queueAddrs v')) []
      (insertWrites s.cfg v' pos.toNat ++ [.tag a v.kind, .setQueue q v', .ret (plainReply .ok)]) s

/-- The address of a node of a queue. -/
def nodeAt (v : Queue) (pos : Nat) : Word := (queueAddrs v).getD pos 0

/-- The queue without node `pos`; it is linear when that node was the loop target (R210). -/
def removeNode (v : Queue) (pos : Nat) : Queue :=
  { v with
    nodes := v.nodes.eraseIdx pos
    fc := if v.fc = some (nodeAt v pos) then none else v.fc }

/-- The writes of a removal (R210): the removed node's link, the predecessor's, and the tail's when the queue became
linear. DESIGN CHOICE (log 40): R210 fixes no order among them; they are made in this one. -/
def removeWrites (k : Cfg) (v v' : Queue) (pos : Nat) : List HostOp :=
  [.memWrite (staticLinkAddr k v.kind (nodeAt v pos)) linkEndWord]
    ++ (if pos = 0 then [] else staticLinkWrite k v' (pos - 1))
    ++ (if v.fc = v'.fc then [] else staticLinkWrite k v' (nodeCount v' - 1))

/-- R210. DESIGN CHOICE (log 40): the record changes after the link words. -/
def execQueueRemove (q pos : Word) (s : State) : Out :=
  withQueue q s fun v =>
    let v' := removeNode v pos.toNat
    command (decide (pos.toNat < nodeCount v) && editable s v (queueAddrs v')) []
      (removeWrites s.cfg v v' pos.toNat ++ [.setQueue q v', .ret (plainReply .ok)]) s

/-- The queue with node `pos` replaced; the loop target follows the replacement (R211). -/
def replaceNode (k : Cfg) (v : Queue) (pos : Nat) (a : Word) : Queue :=
  { v with
    nodes := v.nodes.set pos ⟨a, updAll k v.kind⟩
    fc := if v.fc = some (nodeAt v pos) then some a else v.fc }

/-- The writes of a replacement (R211): those of the removal and the insertion, in their end form. -/
def replaceWrites (k : Cfg) (v v' : Queue) (pos : Nat) : List HostOp :=
  [.memWrite (staticLinkAddr k v.kind (nodeAt v pos)) linkEndWord] ++ insertWrites k v' pos
    ++ (if v.fc = v'.fc then [] else staticLinkWrite k v' (nodeCount v' - 1))

/-- R211. DESIGN CHOICE (log 40): the record and the kind tag change after the link words. -/
def execQueueReplace (q pos a : Word) (s : State) : Out :=
  withQueue q s fun v =>
    let v' := replaceNode s.cfg v pos.toNat a
    command (decide (pos.toNat < nodeCount v) && editable s v (queueAddrs v')) []
      (replaceWrites s.cfg v v' pos.toNat ++ [.tag a v.kind, .setQueue q v', .ret (plainReply .ok)]) s

/-- The queue with another loop target, and the write of its tail's link (R212, R213). DESIGN CHOICE (log 40): the link
word is written before the record. -/
def retarget (k : Cfg) (q : Word) (v : Queue) (fc : Option Word) : List HostOp :=
  let v' : Queue := { v with fc := fc }
  staticLinkWrite k v' (nodeCount v' - 1) ++ [.setQueue q v', .ret (plainReply .ok)]

/-- R212 -/
def execQueueSetCircular (q pos : Word) (s : State) : Out :=
  withQueue q s fun v =>
    command (decide (pos.toNat < nodeCount v) && editable s v (queueAddrs v)) []
      (retarget s.cfg q v (some (nodeAt v pos.toNat))) s

/-- R213 -/
def execQueueClearCircular (q : Word) (s : State) : Out :=
  withQueue q s fun v => command (editable s v (queueAddrs v)) [] (retarget s.cfg q v none) s

end Sys2Proof.Machine
end

