-- ==== Sys2Proof/Machine/Transfer.lean ====
section
/-! DEFINITION. The transfer commands (44_transfer_engine.md), their pseudo-command forms (30_encoding.md R128) and the
interrupt handler (60_exceptions.md R360). -/

namespace Sys2Proof.Machine

/-! ## Starts -/

/-- The operand preconditions of `start_direct` (R262). -/
def directOperands (ch : ChId) (src dst size : Word) (s : State) : Bool :=
  s.hasChan ch.toNat && sizeLegal size && aligned4 src && aligned4 dst

/-- The writes of a direct start (R262). -/
def directOps (i : Nat) (src dst size : Word) (set : IntSet) : List HostOp :=
  [.setError i 0, .regWrite i .csar src, .regWrite i .cdar dst, .rmw i .cbr1 [(.bndt, size)], .setBlockSize i size,
   .flagClear i allFlags, .ieWrite i (ieOf set), .setState i .active, .enable i, .ret (plainReply .ok)]

/-- A start: a bad operand is a violation, `Active` answers `Busy`, then the state and mode preconditions (R262, R265,
R287); over a running channel it is refused (93_implementation_defined.md U5; log 18). -/
def startFrame (ch : ChId) (operands : Bool) (modes : List Mode) (ops : List HostOp) (s : State) : Out :=
  command operands [.busyTest ch.toNat, stateIn ch [.idle], modeIn ch modes] (.idleOverRunning ch.toNat :: ops) s

/-- `start_direct` (R262). -/
def startDirect (ch : ChId) (src dst size : Word) (set : IntSet) (s : State) : Out :=
  startFrame ch (directOperands ch src dst size s) [.direct] (directOps ch.toNat src dst size set) s

/-- The operand preconditions of `start_linked_list` (R265; 42_queue.md R191). DESIGN CHOICE (log 24): a name without a
record is no queue. -/
def listOperands (ch : ChId) (q : Word) (s : State) : Bool :=
  s.cfg.features.linkedList && s.hasChan ch.toNat &&
    match s.queue q with
    | none => false
    | some v =>
      decide (1 ≤ nodeCount v) && v.kind == kindOf (s.chan ch.toNat)
        && addressesLegal (nodeWords s.cfg v.kind) (queueAddrs v)

/-- The writes of a linked-list start (R265, R266). -/
def listOps (k : Cfg) (i : Nat) (kind : Kind) (head : Word) (circular : Bool) (set : IntSet) : List HostOp :=
  [.setError i 0] ++ (if circular then [.setMode i .linkedListCircular] else [])
  ++ [.setHead i (some head), .setBlockSize i 0, .regWrite i .clbar (head &&& 0xFFFF0000), .regWrite i .cbr1 0,
      .regWrite i .cllr (linkStatic k kind head), .flagClear i allFlags, .ieWrite i (ieOf set), .setState i .active,
      .enable i, .ret (plainReply .ok)]

/-- `start_linked_list` (R265). DESIGN CHOICE (log 54): the head and the loop target of the record are those at the issue of
the command. -/
def startList (ch : ChId) (q : Word) (set : IntSet) (s : State) : Out :=
  let c := s.chan ch.toNat
  let v := (s.queue q).getD default
  startFrame ch (listOperands ch q s) [.linkedListLinear, .linkedListCircular]
    (listOps s.cfg ch.toNat (kindOf c) ((queueAddrs v).headD 0) v.fc.isSome set) s

/-- R262 -/
def execStartDirect (ch : ChId) (src dst size : Word) (set : IntSet) (s : State) : Out :=
  startDirect ch src dst size set s

/-- R265 -/
def execStartLinkedList (ch : ChId) (q : Word) (set : IntSet) (s : State) : Out := startList ch q set s

/-- 30_encoding.md R128 -/
def execStartDirectSilent (ch : ChId) (src dst size : Word) (s : State) : Out := startDirect ch src dst size .silent s

/-- 30_encoding.md R128 -/
def execStartDirectIt (ch : ChId) (src dst size : Word) (s : State) : Out := startDirect ch src dst size .default s

/-- 30_encoding.md R128: the subset is any but `Silent`. -/
def execStartDirectItOpt (ch : ChId) (src dst size : Word) (set : IntSet) (s : State) : Out :=
  if set = .silent then violation s else startDirect ch src dst size set s

/-- 30_encoding.md R128 -/
def execStartLinkedListSilent (ch : ChId) (q : Word) (s : State) : Out := startList ch q .silent s

/-- 30_encoding.md R128 -/
def execStartLinkedListIt (ch : ChId) (q : Word) (s : State) : Out := startList ch q .default s

/-- 30_encoding.md R128 -/
def execStartLinkedListItOpt (ch : ChId) (q : Word) (set : IntSet) (s : State) : Out := startList ch q set s

/-! ## Suspend and resume -/

/-- R268, R281 -/
def execSuspend (ch : ChId) (s : State) : Out :=
  command (s.hasChan ch.toNat && s.fromApp) [stateIn ch [.active]]
    [.suspReq ch.toNat, .waitStart ch.toNat .suspend suspendTimeout] s

/-- R270 -/
def execSuspendIt (ch : ChId) (s : State) : Out :=
  command (s.hasChan ch.toNat) [stateIn ch [.active]]
    [.ieSet ch.toNat flagSUSPF, .suspReq ch.toNat, .ret (plainReply .ok)] s

/-- R271 -/
def execResume (ch : ChId) (s : State) : Out :=
  command (s.hasChan ch.toNat) [stateIn ch [.suspend]]
    [.resume ch.toNat, .setState ch.toNat .active, .ret (plainReply .ok)] s

/-! ## Abort -/

/-- R273, R281 -/
def execAbort (ch : ChId) (s : State) : Out :=
  command (s.hasChan ch.toNat && s.fromApp) [stateIn ch [.idle, .active]] [.abortIdle ch.toNat false] s

/-- R275 -/
def execAbortIt (ch : ChId) (s : State) : Out :=
  command (s.hasChan ch.toNat) [stateIn ch [.idle, .active]] [.abortItIdle ch.toNat] s

/-! ## Poll -/

/-- R277, R281 -/
def execPollForTransfer (ch : ChId) (level : Level) (timeout : Word) (s : State) : Out :=
  command (s.hasChan ch.toNat && s.fromApp) [stateIn ch [.active], modeIn ch [.direct, .linkedListLinear]]
    [.waitStart ch.toNat (.poll level) timeout] s

/-! ## The handler -/

/-- The handler of this channel has been entered and has not begun (60_exceptions.md R357; log 22). -/
def handlerEntered (ch : ChId) (s : State) : Bool :=
  match s.isr with
  | some h => decide (h.ch = ch.toNat) && !h.begun
  | none => false

/-- `irq_handler` (60_exceptions.md R360), issued by HOST-IRQ only (R375). -/
def execIrqHandler (ch : ChId) (s : State) : Out :=
  if s.hasChan ch.toNat && handlerEntered ch s then
    runHost [.snapCsr ch.toNat] { s with isr := s.isr.map fun h => { h with begun := true } }
  else violation s

end Sys2Proof.Machine
end

