-- ==== Sys2Proof/Machine/Dispatch.lean ====
section
/-! DEFINITION. One arm per instruction (spec/opcode_table.json), each one direct call of its meaning. -/

namespace Sys2Proof.Machine

def exec (i : Instr) (s : State) : Host.Outcome State Fault Refusal :=
  match i with
  | .init ch => Sys2Proof.Machine.execInit ch s
  | .deinit ch => Sys2Proof.Machine.execDeinit ch s
  | .setConfigDirect ch cfg => Sys2Proof.Machine.execSetConfigDirect ch cfg s
  | .getConfigDirect ch => Sys2Proof.Machine.execGetConfigDirect ch s
  | .setConfigLinkedList ch priority => Sys2Proof.Machine.execSetConfigLinkedList ch priority s
  | .getConfigLinkedList ch => Sys2Proof.Machine.execGetConfigLinkedList ch s
  | .setHwRequestMode ch mode => Sys2Proof.Machine.execSetHwRequestMode ch mode s
  | .resetHwRequestMode ch => Sys2Proof.Machine.execResetHwRequestMode ch s
  | .getHwRequestMode ch => Sys2Proof.Machine.execGetHwRequestMode ch s
  | .setPort ch src dst => Sys2Proof.Machine.execSetPort ch src dst s
  | .resetPort ch => Sys2Proof.Machine.execResetPort ch s
  | .getPort ch => Sys2Proof.Machine.execGetPort ch s
  | .setBurst ch srcLen dstLen => Sys2Proof.Machine.execSetBurst ch srcLen dstLen s
  | .resetBurst ch => Sys2Proof.Machine.execResetBurst ch s
  | .getBurst ch => Sys2Proof.Machine.execGetBurst ch s
  | .setTrigger ch t => Sys2Proof.Machine.execSetTrigger ch t s
  | .resetTrigger ch => Sys2Proof.Machine.execResetTrigger ch s
  | .getTrigger ch => Sys2Proof.Machine.execGetTrigger ch s
  | .setDataHandling ch d => Sys2Proof.Machine.execSetDataHandling ch d s
  | .resetDataHandling ch => Sys2Proof.Machine.execResetDataHandling ch s
  | .getDataHandling ch => Sys2Proof.Machine.execGetDataHandling ch s
  | .setRepeatBlock ch rb => Sys2Proof.Machine.execSetRepeatBlock ch rb s
  | .resetRepeatBlock ch => Sys2Proof.Machine.execResetRepeatBlock ch s
  | .getRepeatBlock ch => Sys2Proof.Machine.execGetRepeatBlock ch s
  | .setSecurity ch sec => Sys2Proof.Machine.execSetSecurity ch sec s
  | .resetSecurity ch => Sys2Proof.Machine.execResetSecurity ch s
  | .getSecurity ch => Sys2Proof.Machine.execGetSecurity ch s
  | .registerCallback ch slot f => Sys2Proof.Machine.execRegisterCallback ch slot f s
  | .setUserData ch p => Sys2Proof.Machine.execSetUserData ch p s
  | .getUserData ch => Sys2Proof.Machine.execGetUserData ch s
  | .startDirect ch src dst size set => Sys2Proof.Machine.execStartDirect ch src dst size set s
  | .startLinkedList ch q set => Sys2Proof.Machine.execStartLinkedList ch q set s
  | .suspend ch => Sys2Proof.Machine.execSuspend ch s
  | .suspendIt ch => Sys2Proof.Machine.execSuspendIt ch s
  | .resume ch => Sys2Proof.Machine.execResume ch s
  | .abort ch => Sys2Proof.Machine.execAbort ch s
  | .abortIt ch => Sys2Proof.Machine.execAbortIt ch s
  | .pollForTransfer ch level timeout => Sys2Proof.Machine.execPollForTransfer ch level timeout s
  | .irqHandler ch => Sys2Proof.Machine.execIrqHandler ch s
  | .getState ch => Sys2Proof.Machine.execGetState ch s
  | .getLastError ch => Sys2Proof.Machine.execGetLastError ch s
  | .getRemainingBytes ch => Sys2Proof.Machine.execGetRemainingBytes ch s
  | .fillNode kind c => Sys2Proof.Machine.execFillNode kind c s
  | .decodeNode n => Sys2Proof.Machine.execDecodeNode n s
  | .convertToDynamic q => Sys2Proof.Machine.execConvertToDynamic q s
  | .convertToStatic q => Sys2Proof.Machine.execConvertToStatic q s
  | .updateDynamicQueueLinks q => Sys2Proof.Machine.execUpdateDynamicQueueLinks q s
  | .queueInit q kind => Sys2Proof.Machine.execQueueInit q kind s
  | .queueInsert q pos addr => Sys2Proof.Machine.execQueueInsert q pos addr s
  | .queueRemove q pos => Sys2Proof.Machine.execQueueRemove q pos s
  | .queueReplace q pos addr => Sys2Proof.Machine.execQueueReplace q pos addr s
  | .queueSetCircular q pos => Sys2Proof.Machine.execQueueSetCircular q pos s
  | .queueClearCircular q => Sys2Proof.Machine.execQueueClearCircular q s
  | .startDirectSilent ch src dst size => Sys2Proof.Machine.execStartDirectSilent ch src dst size s
  | .startDirectIt ch src dst size => Sys2Proof.Machine.execStartDirectIt ch src dst size s
  | .startDirectItOpt ch src dst size set => Sys2Proof.Machine.execStartDirectItOpt ch src dst size set s
  | .startLinkedListSilent ch q => Sys2Proof.Machine.execStartLinkedListSilent ch q s
  | .startLinkedListIt ch q => Sys2Proof.Machine.execStartLinkedListIt ch q s
  | .startLinkedListItOpt ch q set => Sys2Proof.Machine.execStartLinkedListItOpt ch q set s
  | .link ch upd la => Sys2Proof.Machine.execLink ch upd la s
  | .linkEnd ch => Sys2Proof.Machine.execLinkEnd ch s
  | .linkStaticLinear ch la => Sys2Proof.Machine.execLinkStaticLinear ch la s
  | .linkStaticTwoDimensional ch la => Sys2Proof.Machine.execLinkStaticTwoDimensional ch la s
  | .linkDynamic ch upd la => Sys2Proof.Machine.execLinkDynamic ch upd la s
  | .nLinS ch w => Sys2Proof.Machine.execNLinS ch w s
  | .n2dS ch w => Sys2Proof.Machine.execN2dS ch w s
  | .nLinD ch w => Sys2Proof.Machine.execNLinD ch w s
  | .n2dD ch w => Sys2Proof.Machine.execN2dD ch w s
  | .regRead ch r => Sys2Proof.Machine.execRegRead ch r s
  | .fieldWrite ch f v => Sys2Proof.Machine.execFieldWrite ch f v s
  | .regWrite ch r w => Sys2Proof.Machine.execRegWrite ch r w s
  | .ctrlWordWrite ch r fs => Sys2Proof.Machine.execCtrlWordWrite ch r fs s
  | .flagClear ch fs => Sys2Proof.Machine.execFlagClear ch fs s
  | .ieWrite ch fs => Sys2Proof.Machine.execIeWrite ch fs s
  | .ieSet ch fs => Sys2Proof.Machine.execIeSet ch fs s
  | .hwEnable ch => Sys2Proof.Machine.execHwEnable ch s
  | .status ch => Sys2Proof.Machine.execStatus ch s
  | .linkLoad ch => Sys2Proof.Machine.execLinkLoad ch s
  | .hwSuspendReq ch => Sys2Proof.Machine.execHwSuspendReq ch s
  | .hwResume ch => Sys2Proof.Machine.execHwResume ch s
  | .hwReset ch => Sys2Proof.Machine.execHwReset ch s
  | .eStart ch => Sys2Proof.Machine.execEStart ch s
  | .eData ch => Sys2Proof.Machine.execEData ch s
  | .eBlockEnd ch => Sys2Proof.Machine.execEBlockEnd ch s
  | .eComplete ch => Sys2Proof.Machine.execEComplete ch s
  | .eLink ch => Sys2Proof.Machine.execELink ch s
  | .eRaiseDte ch => Sys2Proof.Machine.execERaiseDte ch s
  | .eRaiseUle ch => Sys2Proof.Machine.execERaiseUle ch s
  | .eRaiseUse ch => Sys2Proof.Machine.execERaiseUse ch s
  | .eRaiseTo ch => Sys2Proof.Machine.execERaiseTo ch s
  | .eSuspAck ch => Sys2Proof.Machine.execESuspAck ch s
  | .aGrant ch => Sys2Proof.Machine.execAGrant ch s

end Sys2Proof.Machine
end

