-- ==== Sys2Proof/Machine/Fetch.lean ====
section
/-! DEFINITION. The moves of the agents (00_scope.md R12): fetching the next turn of the schedule, what each turn
does, and placing an encoded instruction where the next step takes it (log 1, log 2, log 32). -/

namespace Sys2Proof.Machine

/-- The next turn, removed from the schedule; when the schedule is empty, a free one (log 1). -/
def fetchTurn (s : State) : Turn × State :=
  match s.agenda with
  | t :: rest => (t, { s with agenda := rest })
  | [] => (Config.freeTurn s.fresh, { s with fresh := s.fresh + 1 })

/-- HOST-APP has no command in progress and no handler runs (R12, 60_exceptions.md R357). -/
def State.appIdle (s : State) : Bool := s.isr.isNone && s.app.todo.isEmpty

/-- A host agent issues an encoded instruction. One that encodes none is a precondition violation (30_encoding.md
R122, R123; log 21; of the register bus, log 30). -/
def issue (p : Packet) (s : State) : Out :=
  match decode s.cfg p with
  | .ok i => exec i s
  | .error _ => violation s

/-- The granted channel: it executes the node that CLLR selects, or takes a data step (46_arbiter.md R343,
30_encoding.md R107). -/
def grant (ch : ChId) (s : State) : Out :=
  if (s.chan ch.toNat).hid.linkPending then
    exec (decodeNodeFormat s.cfg ch (linkUpd s.cfg.layout (s.chan ch.toNat).cllr)) s
  else exec (.eData ch) s

/-- HOST-IRQ goes on: it begins `irq_handler`, or issues a callback's command, or runs its operations
(60_exceptions.md R357 to R372). -/
def handlerTurn (s : State) : Out :=
  match s.isr with
  | none => .next s
  | some h =>
    if !h.begun then exec (.irqHandler (BitVec.ofNat 8 h.ch)) s
    else
      match h.todo with
      | .call p :: rest => issue p { s with isr := some { h with todo := rest } }
      | _ => runHost [] s

/-- The inputs of a channel set by the environment (10_state.md R52, 45_channel_engine.md R324). -/
def setPins (ch : Nat) (req trig ovr : Bool) (s : State) : State :=
  s.onChan ch fun c => { c with pins := ⟨req, trig, ovr⟩ }

/-- One turn of one agent. A turn that its agent cannot take passes. DESIGN CHOICE (log 52): the store of a filled node
records the kind tag first, then its words in ascending order of address; 10_state.md R46 gives no order. -/
def runTurn (t : Turn) (s : State) : Out :=
  match t with
  | .issue p q => if s.appIdle then issue p { s with quantum := q } else .next s
  | .app q => if s.isr.isNone then runHost [] { s with quantum := q } else .next s
  | .store a v => .next (if s.appIdle then { s with mem := memWrite s.mem a.toNat v } else s)
  | .node a n q =>
    if s.appIdle then runHost (.tag a (nodeKind n) :: writeOps a (nodeWordList s.cfg n)) { s with quantum := q }
    else .next s
  | .irq ch => .next (takeInterrupt ch s)
  | .isr q => handlerTurn { s with quantum := q }
  | .grant ch => grant ch s
  | .ack ch => exec (.eSuspAck ch) s
  | .overrun ch => exec (.eRaiseTo ch) s
  | .tick => .next { s with tick := s.tick + 1 }
  | .pins ch req trig ovr => .next (setPins ch req trig ovr s)

/-- The quantum of a turn that the host places (log 32). -/
def placedQuantum : Nat := 4096

/-- The channel that executes a placed node: running, its next step a link step through a link word with the given
update mask (log 32). -/
def readyForNode (L : Layout) (upd : BitVec 8) (c : Channel) : Channel :=
  { c with
    cllr := updWord L upd
    ccr := { c.ccr with en := true, susp := false }
    csr := { c.csr with idle := false }
    hid := { c.hid with paused := false, linkPending := true }
    pins := { c.pins with trig := true } }

/-- An encoded instruction placed where the next step takes it (log 32). -/
def placePacket (p : Packet) (s : State) : State :=
  let s := { s with app := { s.app with todo := [] }, isr := none }
  match p with
  | .node ch upd => { s.onChan ch.toNat (readyForNode s.cfg.layout upd) with agenda := .grant ch :: s.agenda }
  | p =>
    match decode s.cfg p with
    | .ok (.irqHandler ch) =>
      { s with isr := some ⟨ch.toNat, false, none, none, []⟩, agenda := .isr placedQuantum :: s.agenda }
    | _ => { s with agenda := .issue p placedQuantum :: s.agenda }

end Sys2Proof.Machine
end

