-- ==== Sys2Proof/Machine/Step.lean ====
section
/-! DEFINITION. One step of the machine, and the placing of an encoded instruction for it. -/

namespace Sys2Proof.Machine

/-- One step: the next turn of the schedule is fetched and taken (00_scope.md R12). -/
def step (s : State) : Host.Outcome State Fault Refusal := runTurn (fetchTurn s).1 (fetchTurn s).2

/-- `s` with the instruction whose bits are `w` placed where the next step takes it (log 32). -/
def State.withFetchWord (s : State) (nbits w : Nat) : State := placePacket (tablePacket nbits w) s

end Sys2Proof.Machine
end

