-- ==== Sys2Proof/Safety.lean ====
section
/-! DEFINITION. What every step keeps, in the terms the claims use: well-formed parameters, the canonical memory, the
hard-wired registers of a channel without 2-D addressing, PRIO within its field, and the links between EN, SUSP, IDLE and `paused`. -/

namespace Sys2Proof.Safety

open Sys2Proof.Machine

/-- `IDLE = 1` exactly when `EN = 0` (10_state.md R34, 92_eei_decisions.md D45). -/
def idleCoherent (c : Channel) : Prop := c.csr.idle = !c.ccr.en

/-- `EN = 0` implies `SUSP = 0` and `paused = 0` (44_transfer_engine.md R288, 40_register_file.md R152). -/
def suspendCoherent (c : Channel) : Prop := c.ccr.en = false → c.ccr.susp = false ∧ c.hid.paused = false

/-- A channel without 2-D addressing holds 0 in the registers and fields it lacks (10_state.md R24, R26, R27,
40_register_file.md R143, R151). -/
def linearCoherent (L : Layout) (c : Channel) : Prop :=
  c.twoD = false → c.ctr3 = 0 ∧ c.cbr2 = 0 ∧ c.cbr1 &&& ~~~(cbr1LinearMask L) = 0

/-- PRIO is a value of its field (10_state.md R32). -/
def prioFits (L : Layout) (c : Channel) : Prop := c.ccr.prio &&& Fld.prio.ones L = c.ccr.prio

/-- The invariant of one channel. -/
structure ChannelInv (L : Layout) (c : Channel) : Prop where
  idle : idleCoherent c
  suspend : suspendCoherent c
  linear : linearCoherent L c
  prio : prioFits L c

/-- The invariant of the machine. -/
structure Inv (s : State) : Prop where
  cfg : s.cfg.wf = true
  mem : Memory.wf s.mem = true
  chans : ∀ c ∈ s.chans, ChannelInv s.cfg.layout c

/-- What no step changes: the parameters, the number of channels and which of them have 2-D addressing
(00_scope.md R7). -/
def SameBuild (s t : State) : Prop := t.cfg = s.cfg ∧ t.chans.map (·.twoD) = s.chans.map (·.twoD)

/-- A step that neither faults nor is refused. -/
def Answers (o : Out) : Prop := ∃ t, o = .next t

end Sys2Proof.Safety
end

