-- ==== Sys2Proof/Certificates/Slice0/Obligations.lean ====
section
/-! DEFINITION. The statements for the provers, one `Obligations.<Name> : Prop` each, and the vocabulary they share
(namespace `Sys2Proof.Claims`). A statement about an instruction is an equation for what `exec` answers, so that it says
at once that the instruction completes, what it changes and that it changes nothing else. -/

namespace Sys2Proof.Claims

open Sys2Proof.Machine

/-! ## Vocabulary -/

/-- A host agent may issue a command that finishes in this turn: nothing is left over from an earlier command, and the
turn is long enough for 64 host operations (log 2). -/
abbrev Ready (s : State) : Prop := s.pending = [] ∧ 64 ≤ s.quantum

/-- The channel exists (00_scope.md R7). -/
abbrev Has (s : State) (ch : ChId) : Prop := ch.toNat < s.chans.length

/-- The life-cycle state of a channel. -/
abbrev life (s : State) (ch : ChId) : Life := (s.chan ch.toNat).h.state

/-- The caller is HOST-APP. -/
abbrev App (s : State) : Prop := s.isr = none

/-- Channel `i` changed by `f`, everything else kept but for the reply `r`. -/
abbrev repliedAt (s : State) (i : Nat) (r : Result) (f : Channel → Channel) : Out :=
  .next ((s.onChan i f).answer (plainReply r))

/-- Channel `ch` changed by `f`, everything else kept but for the reply `r`. -/
abbrev replied (s : State) (ch : ChId) (r : Result) (f : Channel → Channel) : Out := repliedAt s ch.toNat r f

/-- Channel `ch` changed by `f`, the reply `Ok`, everything else kept. -/
abbrev okAfter (s : State) (ch : ChId) (f : Channel → Channel) : Out := replied s ch .ok f

/-- The reply `Ok` with a value, everything else kept. -/
abbrev answered (s : State) (v : Value) : Out := .next (s.answer ⟨.ok, v⟩)

/-- What a precondition violation does (00_scope.md R11). -/
abbrev violated (s : State) : Out :=
  match s.cfg.build with
  | .checked => .next (s.answer (plainReply .invalidParameter))
  | .debug => .fault .precondition
  | .unchecked => .refused .uncheckedViolation

/-- A setter may run: the handle is configurable and the channel is disabled (43_channel_config.md R223). -/
abbrev Settable (s : State) (ch : ChId) : Prop :=
  Ready s ∧ Has s ch ∧ (life s ch = .init ∨ life s ch = .idle) ∧ (s.chan ch.toNat).ccr.en = false

/-- A getter may run (43_channel_config.md R228). -/
abbrev Gettable (s : State) (ch : ChId) : Prop := Ready s ∧ Has s ch ∧ life s ch ≠ .reset

/-- `H.LastError` set, where the build has it (10_state.md R40). -/
abbrev lastErrorTo (s : State) (e : BitVec 4) (h : Handle) : BitVec 4 :=
  if s.cfg.features.errorCodes then e else h.lastError

/-- The instruction a packet stands for: a pseudo-command is its expansion (30_encoding.md R128). -/
def coreRow : Instr → Instr
  | .startDirectSilent ch s d n => .startDirect ch s d n .silent
  | .startDirectIt ch s d n => .startDirect ch s d n .default
  | .startDirectItOpt ch s d n i => .startDirect ch s d n i
  | .startLinkedListSilent ch q => .startLinkedList ch q .silent
  | .startLinkedListIt ch q => .startLinkedList ch q .default
  | .startLinkedListItOpt ch q i => .startLinkedList ch q i
  | i => i

end Sys2Proof.Claims

open Sys2Proof Sys2Proof.Machine Sys2Proof.Claims Sys2Proof.Safety

/-! ## Encoding -/

/-- Decoding an encoded well-formed instruction gives it back, a pseudo-command its expansion, for every well-formed
layout and node size (00_scope.md R7; 30_encoding.md R104, R105, R114, R117, R118, R128). -/
def Obligations.DecodeEncodeAgree : Prop :=
  ∀ (k : Cfg) (i : Instr) (p : Packet), k.wf = true → i.wf k = true → encode k i = some p → decode k p = .ok (coreRow i)

/-- Whatever the decoder answers is well formed. -/
def Obligations.DecodedIsWellFormed : Prop :=
  ∀ (k : Cfg) (p : Packet) (i : Instr), k.wf = true → decode k p = .ok i → i.wf k = true

/-- A command word with an unassigned opcode or a reserved bit set is no command, and issuing it is a precondition
violation, as is issuing any packet that encodes no instruction (30_encoding.md R117, R118, R122, R123; of the register
bus the model's choice, log 30; of missing argument words, log 21). -/
def Obligations.UnassignedCommandsViolate : Prop :=
  ∀ (ch : ChId) (op : BitVec 6) (args : List Word) (s : State),
    (op.toNat ∈ [0x06, 0x07, 0x2C, 0x2D, 0x2E, 0x2F, 0x3B, 0x3C, 0x3D, 0x3E, 0x3F] →
      issue (.cmd (ch ++ (0#2 ++ op)) args) s = violated s) ∧
    (∀ r : BitVec 2, r ≠ 0 → issue (.cmd (ch ++ (r ++ op)) args) s = violated s) ∧
    ∀ (p : Packet) (e : DecodeError), decode s.cfg p = .error e → issue p s = violated s

/-- Words written out from the spec's encodings decode to the instructions they stand for (30_encoding.md R104, R105,
R117, R118; 40_register_file.md R146; positions LAYOUT_U5, log 3; argument codes log 20). -/
def Obligations.WordsDecode : Prop :=
  decode Cfg.default (.cmd 0x0300 []) = .ok (.init 3) ∧
  decode Cfg.default (.cmd 0x0520 [0x1000, 0x2000, 64, 0]) = .ok (.startDirect 5 0x1000 0x2000 64 .silent) ∧
  decode Cfg.default (.cmd 0x0027 [1, 100]) = .ok (.pollForTransfer 0 .fullComplete 100) ∧
  decode Cfg.default (.cmd 0x0036 [7, 0, 0x20000100]) = .ok (.queueInsert 7 0 0x20000100) ∧
  decode Cfg.default (.linkWord 2 0xF8010120) = .ok (.linkStaticLinear 2 (0x0120 / 4)) ∧
  decode Cfg.default (.linkWord 2 0x18010140) = .ok (.linkDynamic 2 0b0011000 (0x0140 / 4)) ∧
  decode Cfg.default (.linkWord 2 0) = .ok (.linkEnd 2) ∧
  decode Cfg.default (.bus 1 .cfcr (.write 0x00000300)) =
    .ok (.flagClear 1 ⟨true, true, false, false, false, false, false⟩)

/-- In every well-formed layout a link word keeps its update mask and bits 15..2 of the address and has no other bit;
the link pointer is the address that was put into it; and a link word with no bit outside its fields is encoded by what
it decodes to, so that no bit of it is dropped (10_state.md R28, R30; 30_encoding.md R104, R105, R114). The fields of
LAYOUT_U5 (log 3) are the bits of 0xFE01FFFC. -/
def Obligations.LinkWordFields : Prop :=
  (∀ (L : Layout) (m : BitVec 8) (a : Word), L.wf = true →
      linkUpd L (mkLink L m a) = m ∧ mkLink L m a &&& 0x0000FFFC = a &&& 0x0000FFFC ∧
      mkLink L m a &&& ~~~(linkFieldBits L) = 0) ∧
  linkFieldBits Layout.u5 = 0xFE01FFFC ∧
  (∀ (L : Layout) (c : Channel) (m : BitVec 8) (a : Word), L.wf = true → a.toNat % 4 = 0 → c.cllr = mkLink L m a →
    c.lba = a.extractLsb' 16 16 → linkPtr c = a) ∧
  ∀ (k : Cfg) (ch : ChId) (w : Word) (i : Instr), k.wf = true → w &&& ~~~(linkFieldBits k.layout) = 0 →
    decode k (.linkWord ch w) = .ok i → encode k i = some (.linkWord ch w)

/-! ## The step and its invariants -/

/-- A turn that issues a packet runs `exec` of the instruction it decodes to, after the turn is taken off the schedule
and its quantum set; so does the grant of a channel with the node format that CLLR selects, and the handler with a
command of a callback (the schedule is the model's: log 1, log 2). -/
def Obligations.StepRunsDecoded : Prop :=
  (∀ (s : State) (p : Packet) (q : Nat) (rest : List Turn) (i : Instr),
      s.agenda = .issue p q :: rest → s.isr = none → s.app.todo = [] → decode s.cfg p = .ok i →
      step s = exec i { s with agenda := rest, quantum := q }) ∧
  (∀ (s : State) (ch : ChId) (rest : List Turn), s.agenda = .grant ch :: rest →
      (s.chan ch.toNat).hid.linkPending = true →
      ∃ i, decode s.cfg (.node ch (linkUpd s.cfg.layout (s.chan ch.toNat).cllr)) = .ok i ∧
        step s = exec i { s with agenda := rest }) ∧
  (∀ (s : State) (ch : ChId) (rest : List Turn), s.agenda = .grant ch :: rest →
      (s.chan ch.toNat).hid.linkPending = false → step s = exec (.eData ch) { s with agenda := rest }) ∧
  (∀ (s : State) (h : Isr) (p : Packet) (q : Nat) (todo : List HostOp) (rest : List Turn) (i : Instr),
      s.agenda = .isr q :: rest → s.isr = some h → h.begun = true → h.todo = .call p :: todo →
      decode s.cfg p = .ok i →
      step s = exec i { s with agenda := rest, quantum := q, isr := some { h with todo := todo } })

/-- Every step keeps the invariant: well-formed parameters, memory in canonical form, IDLE the negation of EN, no request
or pause on a disabled channel, PRIO within its field, and 0 in what a channel without 2-D addressing lacks (10_state.md
R24, R34; 40_register_file.md R152). -/
def Obligations.StepKeepsInv : Prop := ∀ s t : State, Inv s → step s = .next t → Inv t

/-- The invariant holds at reset. -/
def Obligations.ResetInv : Prop := Inv State.reset

/-- No step changes the parameters, the number of channels or which of them have 2-D addressing (00_scope.md R7). -/
def Obligations.StepKeepsBuild : Prop := ∀ s t : State, step s = .next t → SameBuild s t

/-- Power-on: the values that the spec gives for a channel (10_state.md R56, 70_reset_and_hazards.md R400). -/
def Obligations.ResetValues : Prop :=
  ∀ i < State.reset.chans.length,
    let c := State.reset.chan i
    (c.ctr1 = 0 ∧ c.ctr2 = 0 ∧ c.cbr1 = 0 ∧ c.csar = 0 ∧ c.cdar = 0 ∧ c.ctr3 = 0 ∧ c.cbr2 = 0 ∧ c.cllr = 0) ∧
    c.lba = 0 ∧ c.ccr = ⟨false, false, FlagSet.empty, 0⟩ ∧ c.csr = ⟨true, FlagSet.empty⟩ ∧ c.secAttr = ⟨false, false⟩ ∧
    c.hid = Hidden.zero ∧ c.h = ⟨.reset, .direct, none, 0, 0, ⟨0, 0, 0, 0, 0⟩, 0⟩ ∧ State.reset.irqLine i = false

/-! ## Life cycle and configuration -/

/-- `init` and `deinit`, and where they are violations (43_channel_config.md R221, R222). -/
def Obligations.InitDeinitResult : Prop :=
  ∀ (ch : ChId) (s : State), Ready s →
    (¬ Has s ch → exec (.init ch) s = violated s ∧ exec (.deinit ch) s = violated s) ∧
    (Has s ch → life s ch ≠ .reset → exec (.init ch) s = violated s) ∧
    (Has s ch → life s ch = .reset →
      exec (.init ch) s = okAfter s ch fun c =>
        { c with h := ⟨.init, .direct, none, lastErrorTo s 0 c.h, 0, ⟨0, 0, 0, 0, 0⟩, 0⟩ }) ∧
    (Has s ch → exec (.deinit ch) s = okAfter s ch fun c =>
      { c with
        ctr1 := 0, ctr2 := 0, cbr1 := 0, csar := 0, cdar := 0, cllr := 0, lba := 0
        ctr3 := if c.twoD then 0 else c.ctr3
        cbr2 := if c.twoD then 0 else c.cbr2
        ccr := ⟨false, false, FlagSet.empty, 0⟩
        csr := ⟨true, FlagSet.empty⟩
        secAttr := if s.cfg.features.security then ⟨false, false⟩ else c.secAttr
        hid := Hidden.zero
        h := ⟨.reset, .direct, none, lastErrorTo s 0 c.h, 0, ⟨0, 0, 0, 0, 0⟩, 0⟩ })

/-- `set_config_direct` and `set_config_linked_list` (43_channel_config.md R224, R226). -/
def Obligations.SetConfigResult : Prop :=
  ∀ (ch : ChId) (s : State), Settable s ch →
    let L := s.cfg.layout
    (∀ cfg : DirectConfig, directConfigLegal s.cfg cfg = true →
      exec (.setConfigDirect ch cfg) s = okAfter s ch fun c =>
        { c with
          ctr1 := insFields L [(.srcWidth, cfg.srcWidth.code), (.srcInc, cfg.srcInc.code),
            (.dstWidth, cfg.dstWidth.code), (.dstInc, cfg.dstInc.code)] c.ctr1
          ctr2 := insFields L [(.reqSel, cfg.request), (.swReq, .ofBool (cfg.direction == .memToMem)),
            (.dstReq, .ofBool (cfg.direction == .memToPeriph))] c.ctr2
          cllr := 0
          ccr := { c.ccr with prio := cfg.priority }
          h := { c.h with mode := .direct, head := none, state := .idle } }) ∧
    ∀ p : Word, s.cfg.features.linkedList = true → priorityLegal s.cfg p = true →
      exec (.setConfigLinkedList ch p) s = okAfter s ch fun c =>
        { c with
          ccr := { c.ccr with prio := p }
          h := { c.h with mode := .linkedListLinear, state := .idle } }

/-- The setters and resets of CTR1: ports, bursts, data handling (43_channel_config.md R232, R233, R235, R236, R241,
R242). -/
def Obligations.Ctr1SetterResult : Prop :=
  ∀ (ch : ChId) (s : State), Settable s ch →
    let L := s.cfg.layout
    (∀ src dst : Port, exec (.setPort ch src dst) s = okAfter s ch fun c =>
      { c with ctr1 := insFields L [(.srcPort, src.code), (.dstPort, dst.code)] c.ctr1 }) ∧
    (exec (.resetPort ch) s = okAfter s ch fun c =>
      { c with ctr1 := insFields L [(.srcPort, 0), (.dstPort, 0)] c.ctr1 }) ∧
    (∀ a b : Word, 1 ≤ a.toNat → a.toNat ≤ 64 → 1 ≤ b.toNat → b.toNat ≤ 64 →
      exec (.setBurst ch a b) s = okAfter s ch fun c =>
        { c with ctr1 := insFields L [(.srcBurst, a - 1), (.dstBurst, b - 1)] c.ctr1 }) ∧
    (exec (.resetBurst ch) s = okAfter s ch fun c =>
      { c with ctr1 := insFields L [(.srcBurst, 0), (.dstBurst, 0)] c.ctr1 }) ∧
    (∀ d : DataHandling, d.padAlign.toNat < 4 → exec (.setDataHandling ch d) s = okAfter s ch fun c =>
      { c with ctr1 := insFields L [(.srcByteXchg, .ofBool d.srcByteXchg), (.dstByteXchg, .ofBool d.dstByteXchg),
        (.dstHalfXchg, .ofBool d.dstHalfXchg), (.padAlign, d.padAlign)] c.ctr1 }) ∧
    (exec (.resetDataHandling ch) s = okAfter s ch fun c =>
      { c with ctr1 := insFields L [(.srcByteXchg, 0), (.dstByteXchg, 0), (.dstHalfXchg, 0), (.padAlign, 0)] c.ctr1 })

/-- The setters and resets of CTR2: request mode and trigger (43_channel_config.md R229, R230, R238, R239). -/
def Obligations.Ctr2SetterResult : Prop :=
  ∀ (ch : ChId) (s : State), Settable s ch →
    let L := s.cfg.layout
    (∀ m : HwMode, exec (.setHwRequestMode ch m) s = okAfter s ch fun c =>
      { c with ctr2 := Fld.blockReq.ins L (.ofBool (m == .block)) c.ctr2 }) ∧
    (exec (.resetHwRequestMode ch) s = okAfter s ch fun c => { c with ctr2 := Fld.blockReq.ins L 0 c.ctr2 }) ∧
    (∀ t : Trigger, t.source.toNat < 2 ^ L.trigSel.width → t.polarity ≠ .reserved →
      exec (.setTrigger ch t) s = okAfter s ch fun c =>
        { c with ctr2 := insFields L [(.trigSel, t.source), (.trigPol, t.polarity.code),
          (.trigMode, t.mode.code)] c.ctr2 }) ∧
    (exec (.resetTrigger ch) s = okAfter s ch fun c =>
      { c with ctr2 := insFields L [(.trigSel, 0), (.trigPol, 0), (.trigMode, 0)] c.ctr2 })

/-- The setter and reset of the repeat block, on a channel with 2-D addressing (43_channel_config.md R244, R245). -/
def Obligations.RepeatBlockSetterResult : Prop :=
  ∀ (ch : ChId) (s : State), Settable s ch → (s.chan ch.toNat).twoD = true →
    let L := s.cfg.layout
    (∀ r : RepeatBlock, repeatBlockLegal r = true →
      exec (.setRepeatBlock ch r) s = okAfter s ch fun c =>
        { c with
          cbr1 := insFields L [(.brc, r.blockCount - 1), (.srcDec, r.srcBurstDir.code), (.dstDec, r.dstBurstDir.code),
            (.blkSrcDec, r.srcBlockDir.code), (.blkDstDec, r.dstBlockDir.code)] c.cbr1
          ctr3 := insFields L [(.srcBurstOfs, r.srcBurstOfs), (.dstBurstOfs, r.dstBurstOfs)] c.ctr3
          cbr2 := insFields L [(.blkSrcOfs, r.srcBlockOfs), (.blkDstOfs, r.dstBlockOfs)] c.cbr2 }) ∧
    exec (.resetRepeatBlock ch) s = okAfter s ch fun c =>
      { c with
        cbr1 := insFields L [(.brc, 0), (.srcDec, 0), (.dstDec, 0), (.blkSrcDec, 0), (.blkDstDec, 0)] c.cbr1
        ctr3 := insFields L [(.srcBurstOfs, 0), (.dstBurstOfs, 0)] c.ctr3
        cbr2 := insFields L [(.blkSrcOfs, 0), (.blkDstOfs, 0)] c.cbr2 }

/-- The setter and reset of the security attributes, with the feature on: each of the two registers is written once, with
all its fields (43_channel_config.md R247, R248; 20_memory.md R84). -/
def Obligations.SecuritySetterResult : Prop :=
  ∀ (ch : ChId) (s : State), Settable s ch → s.cfg.wf = true → s.cfg.features.security = true →
    let L := s.cfg.layout
    (∀ x : Security, exec (.setSecurity ch x) s = okAfter s ch fun c =>
      { c with
        secAttr := ⟨x.chSec, x.chPriv⟩
        ctr1 := insFields L [(.srcSec, .ofBool x.srcSec), (.dstSec, .ofBool x.dstSec)] c.ctr1 }) ∧
    exec (.resetSecurity ch) s = okAfter s ch fun c =>
      { c with secAttr := ⟨false, false⟩, ctr1 := insFields L [(.srcSec, 0), (.dstSec, 0)] c.ctr1 }

/-- The getters that read registers return the fields decoded and change nothing (43_channel_config.md R225, R227, R228,
R231, R234, R237, R240, R243, R246, R249, R255). -/
def Obligations.RegisterGetterResult : Prop :=
  ∀ (ch : ChId) (s : State), Gettable s ch → s.cfg.wf = true →
    let L := s.cfg.layout
    let c := s.chan ch.toNat
    let cbr1 := if c.twoD then c.cbr1 else c.cbr1 &&& cbr1LinearMask L
    let ctr3 := if c.twoD then c.ctr3 else 0
    let cbr2 := if c.twoD then c.cbr2 else 0
    (exec (.getConfigDirect ch) s = answered s (.directConfig
      { request := Fld.reqSel.get L c.ctr2
        direction := if Fld.swReq.test L c.ctr2 then .memToMem
          else if Fld.dstReq.test L c.ctr2 then .memToPeriph else .periphToMem
        srcInc := if Fld.srcInc.test L c.ctr1 then .incremented else .fixed
        dstInc := if Fld.dstInc.test L c.ctr1 then .incremented else .fixed
        srcWidth := widthOf (Fld.srcWidth.get L c.ctr1)
        dstWidth := widthOf (Fld.dstWidth.get L c.ctr1)
        priority := c.ccr.prio &&& Fld.prio.ones L })) ∧
    (exec (.getConfigLinkedList ch) s = answered s (.priority (c.ccr.prio &&& Fld.prio.ones L))) ∧
    (exec (.getHwRequestMode ch) s = answered s (.hwMode (if Fld.blockReq.test L c.ctr2 then .block else .burst))) ∧
    (exec (.getPort ch) s = answered s (.port (if Fld.srcPort.test L c.ctr1 then .port1 else .port0)
      (if Fld.dstPort.test L c.ctr1 then .port1 else .port0))) ∧
    (exec (.getBurst ch) s = answered s (.burst (Fld.srcBurst.get L c.ctr1 + 1) (Fld.dstBurst.get L c.ctr1 + 1))) ∧
    (exec (.getTrigger ch) s = answered s (.trigger
      ⟨Fld.trigSel.get L c.ctr2,
       if Fld.trigPol.get L c.ctr2 = 1 then .rising else if Fld.trigPol.get L c.ctr2 = 2 then .falling else .none,
       trigModeOf (Fld.trigMode.get L c.ctr2)⟩)) ∧
    (exec (.getDataHandling ch) s = answered s (.dataHandling
      ⟨Fld.srcByteXchg.test L c.ctr1, Fld.dstByteXchg.test L c.ctr1, Fld.dstHalfXchg.test L c.ctr1,
       Fld.padAlign.get L c.ctr1⟩)) ∧
    (exec (.getRepeatBlock ch) s = answered s (.repeatBlock
      { blockCount := Fld.brc.get L cbr1 + 1
        srcBurstOfs := Fld.srcBurstOfs.get L ctr3
        srcBurstDir := if Fld.srcDec.test L cbr1 then .subtract else .add
        dstBurstOfs := Fld.dstBurstOfs.get L ctr3
        dstBurstDir := if Fld.dstDec.test L cbr1 then .subtract else .add
        srcBlockOfs := Fld.blkSrcOfs.get L cbr2
        srcBlockDir := if Fld.blkSrcDec.test L cbr1 then .subtract else .add
        dstBlockOfs := Fld.blkDstOfs.get L cbr2
        dstBlockDir := if Fld.blkDstDec.test L cbr1 then .subtract else .add })) ∧
    (s.cfg.features.security = true → exec (.getSecurity ch) s = answered s (.security
      ⟨c.secAttr.chSec, c.secAttr.chPriv, Fld.srcSec.test L c.ctr1, Fld.dstSec.test L c.ctr1⟩)) ∧
    (exec (.getRemainingBytes ch) s = answered s (.word (Fld.bndt.get L cbr1 + Fld.brc.get L cbr1 * c.h.blockSize)))

/-- The handle accessors (43_channel_config.md R250 to R254). -/
def Obligations.HandleAccessorResult : Prop :=
  ∀ (ch : ChId) (s : State), Ready s → Has s ch →
    let h := (s.chan ch.toNat).h
    (∀ (slot : Slot) (f : Word), h.state = .init ∨ h.state = .idle →
      exec (.registerCallback ch slot f) s = okAfter s ch fun c =>
        { c with h := { c.h with cb :=
          { half := if slot = .half then f else c.h.cb.half
            complete := if slot = .complete then f else c.h.cb.complete
            abort := if slot = .abort then f else c.h.cb.abort
            suspend := if slot = .suspend then f else c.h.cb.suspend
            error := if slot = .error then f else c.h.cb.error } } }) ∧
    exec (.getState ch) s = answered s (.life h.state) ∧
    (h.state ≠ .reset → s.cfg.features.userData = true →
      (∀ p, exec (.setUserData ch p) s =
        okAfter s ch fun c => { c with h := { c.h with userData := p } }) ∧
      exec (.getUserData ch) s = answered s (.word h.userData)) ∧
    (h.state ≠ .reset → s.cfg.features.errorCodes = true →
      exec (.getLastError ch) s = answered s (.lastError h.lastError))

/-- A getter returns what its setter was given (43_channel_config.md R225; 41_node_codec.md R178). -/
def Obligations.GetAfterSet : Prop :=
  ∀ (ch : ChId) (s : State), Settable s ch → s.cfg.wf = true →
    (∀ cfg : DirectConfig, directConfigLegal s.cfg cfg = true →
      ∃ t, exec (.setConfigDirect ch cfg) s = .next t ∧ exec (.getConfigDirect ch) t = answered t (.directConfig cfg)) ∧
    (∀ m : HwMode, ∃ t, exec (.setHwRequestMode ch m) s = .next t ∧
      exec (.getHwRequestMode ch) t = answered t (.hwMode m)) ∧
    (∀ a b : Port, ∃ t, exec (.setPort ch a b) s = .next t ∧ exec (.getPort ch) t = answered t (.port a b)) ∧
    (∀ a b : Word, 1 ≤ a.toNat → a.toNat ≤ 64 → 1 ≤ b.toNat → b.toNat ≤ 64 →
      ∃ t, exec (.setBurst ch a b) s = .next t ∧ exec (.getBurst ch) t = answered t (.burst a b)) ∧
    (∀ x : Trigger, triggerLegal s.cfg.layout x = true →
      ∃ t, exec (.setTrigger ch x) s = .next t ∧ exec (.getTrigger ch) t = answered t (.trigger x)) ∧
    (∀ d : DataHandling, dataHandlingLegal d = true →
      ∃ t, exec (.setDataHandling ch d) s = .next t ∧ exec (.getDataHandling ch) t = answered t (.dataHandling d)) ∧
    (∀ r : RepeatBlock, (s.chan ch.toNat).twoD = true → repeatBlockLegal r = true →
      ∃ t, exec (.setRepeatBlock ch r) s = .next t ∧ exec (.getRepeatBlock ch) t = answered t (.repeatBlock r)) ∧
    (∀ x : Security, s.cfg.features.security = true →
      ∃ t, exec (.setSecurity ch x) s = .next t ∧ exec (.getSecurity ch) t = answered t (.security x))

/-! ## Preconditions -/

/-- The preconditions of a direct start, `Active` apart, which answers `Busy` (44_transfer_engine.md R262, R287). -/
abbrev Sys2Proof.Claims.directStartOk (s : State) (ch : ChId) (src dst size : Word) : Bool :=
  directOperands ch src dst size s &&
    (life s ch == .active || life s ch == .idle && (s.chan ch.toNat).h.mode == .direct)

/-- The preconditions of a linked-list start, `Active` apart (44_transfer_engine.md R265, R287). -/
abbrev Sys2Proof.Claims.listStartOk (s : State) (ch : ChId) (q : Word) : Bool :=
  listOperands ch q s && (life s ch == .active || life s ch == .idle && (s.chan ch.toNat).h.mode != .direct)

/-- The state admits a setter. -/
abbrev Sys2Proof.Claims.configurable (l : Life) : Bool := l == .init || l == .idle

/-- What each command asks of the operands, the handle and the caller, the existence of the channel apart
(43_channel_config.md R223, R228; 44_transfer_engine.md R262 to R277, R281, R285; 60_exceptions.md R375; log 22;
get_user_data with its feature off: log 46). -/
inductive Sys2Proof.Claims.Precondition (s : State) (ch : ChId) : Instr → Bool → Prop
  | init : Precondition s ch (.init ch) (life s ch == .reset)
  | deinit : Precondition s ch (.deinit ch) true
  | setConfigDirect c : Precondition s ch (.setConfigDirect ch c)
      (directConfigLegal s.cfg c && configurable (life s ch))
  | setConfigLinkedList p : Precondition s ch (.setConfigLinkedList ch p)
      (s.cfg.features.linkedList && priorityLegal s.cfg p && configurable (life s ch))
  | setHwRequestMode m : Precondition s ch (.setHwRequestMode ch m) (configurable (life s ch))
  | resetHwRequestMode : Precondition s ch (.resetHwRequestMode ch) (configurable (life s ch))
  | setPort a b : Precondition s ch (.setPort ch a b) (configurable (life s ch))
  | resetPort : Precondition s ch (.resetPort ch) (configurable (life s ch))
  | setBurst a b : Precondition s ch (.setBurst ch a b) (burstLegal a && burstLegal b && configurable (life s ch))
  | resetBurst : Precondition s ch (.resetBurst ch) (configurable (life s ch))
  | setTrigger x : Precondition s ch (.setTrigger ch x) (triggerLegal s.cfg.layout x && configurable (life s ch))
  | resetTrigger : Precondition s ch (.resetTrigger ch) (configurable (life s ch))
  | setDataHandling d : Precondition s ch (.setDataHandling ch d) (dataHandlingLegal d && configurable (life s ch))
  | resetDataHandling : Precondition s ch (.resetDataHandling ch) (configurable (life s ch))
  | setRepeatBlock r : Precondition s ch (.setRepeatBlock ch r)
      ((s.chan ch.toNat).twoD && repeatBlockLegal r && configurable (life s ch))
  | resetRepeatBlock : Precondition s ch (.resetRepeatBlock ch) ((s.chan ch.toNat).twoD && configurable (life s ch))
  | setSecurity x : Precondition s ch (.setSecurity ch x) (s.cfg.features.security && configurable (life s ch))
  | resetSecurity : Precondition s ch (.resetSecurity ch) (s.cfg.features.security && configurable (life s ch))
  | registerCallback slot f : Precondition s ch (.registerCallback ch slot f) (configurable (life s ch))
  | setUserData p : Precondition s ch (.setUserData ch p) (s.cfg.features.userData && life s ch != .reset)
  | getUserData : Precondition s ch (.getUserData ch) (s.cfg.features.userData && life s ch != .reset)
  | getLastError : Precondition s ch (.getLastError ch) (s.cfg.features.errorCodes && life s ch != .reset)
  | getSecurity : Precondition s ch (.getSecurity ch) (s.cfg.features.security && life s ch != .reset)
  | getConfigDirect : Precondition s ch (.getConfigDirect ch) (life s ch != .reset)
  | getConfigLinkedList : Precondition s ch (.getConfigLinkedList ch) (life s ch != .reset)
  | getHwRequestMode : Precondition s ch (.getHwRequestMode ch) (life s ch != .reset)
  | getPort : Precondition s ch (.getPort ch) (life s ch != .reset)
  | getBurst : Precondition s ch (.getBurst ch) (life s ch != .reset)
  | getTrigger : Precondition s ch (.getTrigger ch) (life s ch != .reset)
  | getDataHandling : Precondition s ch (.getDataHandling ch) (life s ch != .reset)
  | getRepeatBlock : Precondition s ch (.getRepeatBlock ch) (life s ch != .reset)
  | getRemainingBytes : Precondition s ch (.getRemainingBytes ch) (life s ch != .reset)
  | getState : Precondition s ch (.getState ch) true
  | startDirect a b n x : Precondition s ch (.startDirect ch a b n x) (directStartOk s ch a b n)
  | startDirectSilent a b n : Precondition s ch (.startDirectSilent ch a b n) (directStartOk s ch a b n)
  | startDirectIt a b n : Precondition s ch (.startDirectIt ch a b n) (directStartOk s ch a b n)
  | startDirectItOpt a b n x : Precondition s ch (.startDirectItOpt ch a b n x)
      (x != .silent && directStartOk s ch a b n)
  | startLinkedList q x : Precondition s ch (.startLinkedList ch q x) (listStartOk s ch q)
  | startLinkedListSilent q : Precondition s ch (.startLinkedListSilent ch q) (listStartOk s ch q)
  | startLinkedListIt q : Precondition s ch (.startLinkedListIt ch q) (listStartOk s ch q)
  | startLinkedListItOpt q x : Precondition s ch (.startLinkedListItOpt ch q x) (listStartOk s ch q)
  | suspend : Precondition s ch (.suspend ch) (s.isr.isNone && life s ch == .active)
  | suspendIt : Precondition s ch (.suspendIt ch) (life s ch == .active)
  | resume : Precondition s ch (.resume ch) (life s ch == .suspend)
  | abort : Precondition s ch (.abort ch) (s.isr.isNone && (life s ch == .idle || life s ch == .active))
  | abortIt : Precondition s ch (.abortIt ch) (life s ch == .idle || life s ch == .active)
  | pollForTransfer l n : Precondition s ch (.pollForTransfer ch l n)
      (s.isr.isNone && life s ch == .active && (s.chan ch.toNat).h.mode != .linkedListCircular)
  | irqHandler : Precondition s ch (.irqHandler ch) (s.isr.any fun h => h.ch == ch.toNat && !h.begun)

/-- A command on a channel that does not exist, with an illegal operand, in a wrong life-cycle state, or from a context
that may not issue it, is a precondition violation: in the checked build it answers `InvalidParameter` and changes
nothing else (00_scope.md R11; 43_channel_config.md R223, R228; 44_transfer_engine.md R281, R285; 60_exceptions.md
R375). The model's choices: the name of no queue record is illegal (log 24), when `irq_handler` may be issued (log 22), the
getter of the user data without its feature (log 46), `get_security` and `reset_security` without theirs (log 33), and a
priority below NPRIO that does not fit the field PRIO (log 4). -/
def Obligations.PreconditionViolations : Prop :=
  ∀ (s : State) (ch : ChId) (i : Instr) (g : Bool), Ready s → Claims.Precondition s ch i g →
    (s.chans.length ≤ ch.toNat ∨ g = false) → exec i s = violated s

/-- The starts, and the setters and resets that write registers (43_channel_config.md R223). -/
def Sys2Proof.Claims.configures : Instr → Bool
  | .setConfigDirect _ _ | .setConfigLinkedList _ _ | .setHwRequestMode _ _ | .resetHwRequestMode _ | .setPort _ _ _
  | .resetPort _ | .setBurst _ _ _ | .resetBurst _ | .setTrigger _ _ | .resetTrigger _ | .setDataHandling _ _
  | .resetDataHandling _ | .setRepeatBlock _ _ | .resetRepeatBlock _ | .setSecurity _ _ | .resetSecurity _
  | .startDirect _ _ _ _ _ | .startDirectSilent _ _ _ _ | .startDirectIt _ _ _ _ | .startDirectItOpt _ _ _ _ _
  | .startLinkedList _ _ _ | .startLinkedListSilent _ _ | .startLinkedListIt _ _ | .startLinkedListItOpt _ _ _ => true
  | _ => false

/-- A host write to a link register or CLBAR of an enabled channel is refused (93_implementation_defined.md U3), and so
is a start, a setter or a `set_config_*` whose preconditions hold in the state `Idle` over an enabled channel (U5); in
the state `Init` a setter is refused by U3 where it writes a link register. That the row of a link word is such a write
is log 28, where the refusal stands among a command's steps is log 18: both are the model's choice. -/
def Obligations.EnabledLinkWriteRefused : Prop :=
  ∀ (ch : ChId) (s : State), Ready s → Has s ch → (s.chan ch.toNat).ccr.en = true →
    (∀ (r : Reg) (w : Word), isLinkReg r = true → exec (.regWrite ch r w) s = .refused .linkWriteWhileEnabled) ∧
    (∀ (f : Fld) (v : Word), isLinkReg f.reg = true → exec (.fieldWrite ch f v) s = .refused .linkWriteWhileEnabled) ∧
    (∀ (r : Reg) (fs : List (Fld × Word)), isLinkReg r = true →
      exec (.ctrlWordWrite ch r fs) s = .refused .linkWriteWhileEnabled) ∧
    (∀ (m : BitVec 8) (d : BitVec 7) (la : BitVec 14), ∀ i ∈ [Instr.link ch m la, .linkEnd ch, .linkStaticLinear ch la,
        .linkStaticTwoDimensional ch la, .linkDynamic ch d la], exec i s = .refused .linkWriteWhileEnabled) ∧
    ∀ i, configures i = true → Claims.Precondition s ch i true →
      (life s ch = .idle → exec i s = .refused .idleOverRunning) ∧
      (life s ch = .init → (∀ p, i ≠ .setConfigLinkedList ch p) → exec i s = .refused .linkWriteWhileEnabled)

/-! ## Starts -/

/-- The interrupt subsets of a start (44_transfer_engine.md R261), and as the enable bits of LAYOUT_U5 (log 3). -/
def Obligations.InterruptSubsets : Prop :=
  (let fatal : FlagSet := ⟨false, true, false, true, true, true, false⟩;
    ieOf .silent = ⟨false, false, false, false, false, false, false⟩ ∧ ieOf .none = fatal ∧
    ieOf .halfComplete = { fatal with ht := true } ∧ ieOf .timeoutOnly = { fatal with tov := true } ∧
    ieOf .default = { fatal with ht := true, tov := true }) ∧
  (∀ (L : Layout) (x : IntSet), L.wf = true → FlagSet.ofEnables L ((ieOf x).toEnables L) = ieOf x) ∧
  (ieOf .silent).toEnables Layout.u5 = 0x0000 ∧ (ieOf .none).toEnables Layout.u5 = 0x1D00 ∧
  (ieOf .halfComplete).toEnables Layout.u5 = 0x1F00 ∧ (ieOf .timeoutOnly).toEnables Layout.u5 = 0x5D00 ∧
  (ieOf .default).toEnables Layout.u5 = 0x5F00

/-- `start_direct` in its order, the channel then enabled (`chEnable` is stated in `EnableResult`). -/
abbrev Sys2Proof.Claims.directStarted (s : State) (ch : ChId) (src dst size : Word) (set : IntSet) : Out :=
  okAfter s ch fun c => chEnable s.cfg
    { c with
      csar := src
      cdar := dst
      cbr1 := cbr1View s.cfg.layout c (Fld.bndt.ins s.cfg.layout size (cbr1View s.cfg.layout c c.cbr1))
      csr := { c.csr with flags := FlagSet.empty }
      ccr := { c.ccr with ie := ieOf set }
      h := { c.h with lastError := lastErrorTo s 0 c.h, blockSize := size, state := .active } }

/-- `start_direct` and its three pseudo-commands (44_transfer_engine.md R262; 30_encoding.md R128). -/
def Obligations.StartDirectResult : Prop :=
  ∀ (ch : ChId) (s : State) (src dst size : Word), Ready s → Has s ch → life s ch = .idle →
    (s.chan ch.toNat).h.mode = .direct → (s.chan ch.toNat).ccr.en = false →
    src.toNat % 4 = 0 → dst.toNat % 4 = 0 → 1 ≤ size.toNat → size.toNat ≤ 65535 →
    (∀ set, exec (.startDirect ch src dst size set) s = directStarted s ch src dst size set) ∧
    (∀ set, set ≠ .silent → exec (.startDirectItOpt ch src dst size set) s = directStarted s ch src dst size set) ∧
    exec (.startDirectSilent ch src dst size) s = directStarted s ch src dst size .silent ∧
    exec (.startDirectIt ch src dst size) s = directStarted s ch src dst size .default

/-- `start_linked_list` in its order; the link word has an update bit for every register of the kind's full nodes. -/
abbrev Sys2Proof.Claims.listStarted (s : State) (ch : ChId) (head : Word) (circular : Bool) (set : IntSet) : Out :=
  okAfter s ch fun c => chEnable s.cfg
    { c with
      lba := head.extractLsb' 16 16
      cbr1 := 0
      cllr := updWord s.cfg.layout (if c.twoD then s.cfg.nodeRegs2d else 0b10011111) ||| (head &&& 0x0000FFFC)
      csr := { c.csr with flags := FlagSet.empty }
      ccr := { c.ccr with ie := ieOf set }
      h := { c.h with
        lastError := lastErrorTo s 0 c.h
        mode := if circular then .linkedListCircular else c.h.mode
        head := some head
        blockSize := 0
        state := .active } }

/-- `start_linked_list` and its three pseudo-commands (44_transfer_engine.md R265, R266; 30_encoding.md R128). -/
def Obligations.StartLinkedListResult : Prop :=
  ∀ (ch : ChId) (s : State) (q : Word) (v : Queue) (n : QNode) (ns : List QNode), Ready s → Has s ch →
    life s ch = .idle → (s.chan ch.toNat).h.mode ≠ .direct → (s.chan ch.toNat).ccr.en = false →
    s.cfg.features.linkedList = true → s.queue q = some v → v.nodes = n :: ns →
    v.kind = (if (s.chan ch.toNat).twoD then .twoDimensional else .linear) →
    addressesLegal (nodeWords s.cfg v.kind) (queueAddrs v) = true →
    (∀ set, exec (.startLinkedList ch q set) s = listStarted s ch n.addr v.fc.isSome set) ∧
    (∀ set, exec (.startLinkedListItOpt ch q set) s = listStarted s ch n.addr v.fc.isSome set) ∧
    exec (.startLinkedListSilent ch q) s = listStarted s ch n.addr v.fc.isSome .silent ∧
    exec (.startLinkedListIt ch q) s = listStarted s ch n.addr v.fc.isSome .default

/-- The start of a direct transfer and its pseudo-commands, with the subset each has (30_encoding.md R128). -/
abbrev Sys2Proof.Claims.directStarts (ch : ChId) (src dst size : Word) (set : IntSet) : List Instr :=
  [.startDirect ch src dst size set, .startDirectSilent ch src dst size, .startDirectIt ch src dst size]
    ++ if set = .silent then [] else [.startDirectItOpt ch src dst size set]

/-- The start of a linked-list transfer and its pseudo-commands (30_encoding.md R128). -/
abbrev Sys2Proof.Claims.listStarts (ch : ChId) (q : Word) (set : IntSet) : List Instr :=
  [.startLinkedList ch q set, .startLinkedListSilent ch q, .startLinkedListIt ch q, .startLinkedListItOpt ch q set]

/-- A start of an active channel answers `Busy` and changes nothing; a start in any other state than `Idle`, in the wrong
mode, or with operands outside the preconditions is a violation (44_transfer_engine.md R262, R265, R285, R287). That the
name of no queue record is such an operand is the model's choice (log 24). -/
def Obligations.StartBusyOrViolation : Prop :=
  ∀ (ch : ChId) (s : State) (set : IntSet) (i : Instr), Ready s →
    (∀ src dst size : Word, i ∈ directStarts ch src dst size set →
      (directOperands ch src dst size s = true → life s ch = .active →
        exec i s = .next (s.answer (plainReply .busy))) ∧
      (directOperands ch src dst size s = true → life s ch ≠ .active →
        life s ch ≠ .idle ∨ (s.chan ch.toNat).h.mode ≠ .direct → exec i s = violated s) ∧
      (directOperands ch src dst size s = false → exec i s = violated s)) ∧
    (∀ q : Word, i ∈ listStarts ch q set →
      (listOperands ch q s = true → life s ch = .active → exec i s = .next (s.answer (plainReply .busy))) ∧
      (listOperands ch q s = true → life s ch ≠ .active →
        life s ch ≠ .idle ∨ (s.chan ch.toNat).h.mode = .direct → exec i s = violated s) ∧
      (listOperands ch q s = false → exec i s = violated s))

/-- A channel stopped by a raised error flag (45_channel_engine.md R325). -/
abbrev Sys2Proof.Claims.stopped (c : Channel) (f : FlagSet) : Channel :=
  { c with ccr := { c.ccr with en := false, susp := false }, csr := ⟨true, f⟩ }

/-- The reload copies of the block size and count (45_channel_engine.md R305). -/
abbrev Sys2Proof.Claims.reloaded (L : Layout) (c : Channel) : Channel :=
  { c with hid := { c.hid with
      blkReload := (Fld.bndt.get L c.cbr1).setWidth 16
      brcReload := (if c.twoD then Fld.brc.get L c.cbr1 else 0).setWidth 11 } }

/-- The bytes of the event unit that a node starts: a block, or with another event mode than 0 all the blocks of the node
(45_channel_engine.md R306, R318; log 16). -/
abbrev Sys2Proof.Claims.eventUnit (L : Layout) (c : Channel) : Nat :=
  if Fld.eventMode.get L c.ctr2 = 0 then bndtOf L c else (brcOf L c + 1) * bndtOf L c

/-- `begin_block()` of a node (45_channel_engine.md R306). -/
abbrev Sys2Proof.Claims.blockBegun (k : Cfg) (c : Channel) : Channel :=
  { c with hid := { c.hid with
      unitTotal := eventUnit k.layout c
      unitMoved := 0
      sbLeft := srcBurstBytes k c
      dbLeft := dstBurstBytes k c } }

/-- `CfgValid` (45_channel_engine.md R303): no reserved width, block size and addresses multiples of the item sizes; and
no reserved trigger polarity where the model's parameter says that it counts (30_encoding.md R122; log 47). -/
abbrev Sys2Proof.Claims.Valid (k : Cfg) (c : Channel) : Prop :=
  let L := k.layout
  let sw := 2 ^ (Fld.srcWidth.get L c.ctr1).toNat
  let dw := 2 ^ (Fld.dstWidth.get L c.ctr1).toNat
  Fld.srcWidth.get L c.ctr1 ≠ 3 ∧ Fld.dstWidth.get L c.ctr1 ≠ 3 ∧
    (k.polarityChecked = true → Fld.trigPol.get L c.ctr2 ≠ 3) ∧
    (Fld.bndt.get L c.cbr1).toNat % sw = 0 ∧ c.csar.toNat % sw = 0 ∧ c.cdar.toNat % dw = 0

/-- `E.START` (45_channel_engine.md R305). -/
def Sys2Proof.Claims.started (k : Cfg) (c : Channel) : Channel :=
  let L := k.layout
  let d := reloaded L { c with hid := { c.hid with paused := false, tcDue := false } }
  let clear : Channel := { d with hid := { d.hid with linkPending := false } }
  if bndtOf L c ≠ 0 then
    if Valid k c then blockBegun k clear else stopped clear { c.csr.flags with use := true }
  else if c.cllr ≠ 0 ∧ Fld.uCbr1.test L c.cllr = true then { d with hid := { d.hid with linkPending := true } }
  else stopped d { c.csr.flags with use := true }

/-- `hw_enable` and the start rule, in every event mode (1 to 3: log 16): nothing on an enabled channel, else EN is set,
IDLE cleared and the channel started; the row `E.START` is the start rule alone (log 13); whether the reserved trigger
polarity is valid is a parameter (log 47; 40_register_file.md R148; 45_channel_engine.md R303, R305, R306, R318, R323). -/
def Obligations.EnableResult : Prop :=
  ∀ (ch : ChId) (s : State), Ready s → Has s ch →
    ((s.chan ch.toNat).ccr.en = true → exec (.hwEnable ch) s = okAfter s ch id ∧
      exec (.eStart ch) s = .next (s.onChan ch.toNat (started s.cfg))) ∧
    ((s.chan ch.toNat).ccr.en = false → exec (.hwEnable ch) s = okAfter s ch fun c =>
      started s.cfg { c with ccr := { c.ccr with en := true }, csr := { c.csr with idle := false } })

/-! ## Suspend, abort, poll -/

/-- The suspend request on a channel: ignored when it is disabled (40_register_file.md R152). -/
abbrev Sys2Proof.Claims.suspRequested (c : Channel) : Ccr := { c.ccr with susp := c.ccr.en || c.ccr.susp }

/-- A channel after a channel reset (40_register_file.md R156). -/
abbrev Sys2Proof.Claims.wiped (c : Channel) : Channel :=
  { c with ccr := { c.ccr with en := false, susp := false }, csr := ⟨true, FlagSet.empty⟩, hid := Hidden.zero }

/-- A budget that has not been spent at the instant the wait begins (44_transfer_engine.md R267). -/
abbrev Sys2Proof.Claims.hasBudget (s : State) (budget : Word) : Prop := s.cfg.timeoutStrict = true ∨ 0 < budget.toNat

/-- HOST-APP waits with the host operations `todo` left. -/
abbrev Sys2Proof.Claims.waitsWith (s : State) (ch : ChId) (f : Channel → Channel) (todo : List HostOp) : Out :=
  .next { s.onChan ch.toNat f with app := { s.app with todo := todo } }

/-- `suspend` and `suspend_it` request, `resume` clears the request (44_transfer_engine.md R268, R270, R271). -/
def Obligations.SuspendResult : Prop :=
  ∀ (ch : ChId) (s : State), Ready s → Has s ch →
    (life s ch = .active →
      exec (.suspendIt ch) s = okAfter s ch fun c =>
        { c with ccr := { suspRequested c with ie := { c.ccr.ie with suspf := true } } }) ∧
    (life s ch = .active → App s → (s.chan ch.toNat).csr.flags.suspf = true →
      exec (.suspend ch) s = okAfter s ch fun c =>
        { c with ccr := suspRequested c, h := { c.h with state := .suspend } }) ∧
    (life s ch = .active → App s → (s.chan ch.toNat).csr.flags.suspf = false →
      exec (.suspend ch) s = waitsWith s ch (fun c => { c with ccr := suspRequested c })
        [.waitRead ⟨ch.toNat, .suspend, s.tick, 5⟩]) ∧
    (life s ch = .suspend → (s.chan ch.toNat).ccr.susp = true →
      exec (.resume ch) s = okAfter s ch fun c =>
        { c with
          ccr := { c.ccr with susp := false }
          csr := { c.csr with flags := { c.csr.flags with suspf := false } }
          hid := { c.hid with paused := false }
          h := { c.h with state := .active } }) ∧
    (life s ch = .suspend → (s.chan ch.toNat).ccr.susp = false →
      exec (.resume ch) s = okAfter s ch fun c => { c with h := { c.h with state := .active } })

/-- `abort` and `abort_it`: `Error` of an idle channel with nothing changed, else a suspend request in the state `Abort`;
`abort` then waits, or resets the channel at once when it is already suspended or the budget is 0 and the expiry test is
not strict (44_transfer_engine.md R267, R273, R275). -/
def Obligations.AbortResult : Prop :=
  ∀ (ch : ChId) (s : State), Ready s → Has s ch → (life s ch = .idle ∨ life s ch = .active) →
    ((s.chan ch.toNat).csr.idle = true →
      exec (.abortIt ch) s = .next (s.answer (plainReply .error)) ∧
      (App s → exec (.abort ch) s = .next (s.answer (plainReply .error)))) ∧
    ((s.chan ch.toNat).csr.idle = false →
      (exec (.abortIt ch) s = okAfter s ch fun c =>
        { c with
          ccr := { suspRequested c with ie := { c.ccr.ie with suspf := true } }
          h := { c.h with state := .abort } }) ∧
      (App s → (s.chan ch.toNat).csr.flags.suspf = true →
        exec (.abort ch) s = okAfter s ch fun c => { wiped c with h := { c.h with state := .idle } }) ∧
      (App s → (s.chan ch.toNat).csr.flags.suspf = false → hasBudget s s.cfg.abortTimeout →
        exec (.abort ch) s = waitsWith s ch
          (fun c => { c with ccr := suspRequested c, h := { c.h with state := .abort } })
          [.waitRead ⟨ch.toNat, .abort false, s.tick, s.cfg.abortTimeout⟩]) ∧
      (App s → (s.chan ch.toNat).csr.flags.suspf = false → ¬ hasBudget s s.cfg.abortTimeout →
        exec (.abort ch) s = replied s ch .error fun c => { wiped c with h := { c.h with state := .idle } }))

/-- An error flag of a status (10_state.md R34). -/
abbrev Sys2Proof.Claims.errorSet (f : FlagSet) : Bool := f.dte || f.use || f.ule || f.tov

/-- `errbits` (10_state.md R40): DTE 1, ULE 2, USE 4, TO 8. -/
abbrev Sys2Proof.Claims.errorBits (f : FlagSet) : BitVec 4 :=
  (if f.dte then 1 else 0) ||| (if f.ule then 2 else 0) ||| (if f.use then 4 else 0) ||| (if f.tov then 8 else 0)

/-- The end of a poll by an error flag (44_transfer_engine.md R277). -/
abbrev Sys2Proof.Claims.pollFailed (s : State) (c : Channel) : Channel :=
  { wiped c with h := { c.h with
      state := .idle, lastError := lastErrorTo s (c.h.lastError ||| errorBits c.csr.flags) c.h } }

/-- The end of a poll by the flag it waits for (44_transfer_engine.md R277, R278). -/
abbrev Sys2Proof.Claims.pollMet (l : Level) (c : Channel) : Channel :=
  match l with
  | .halfComplete => { c with csr := { c.csr with flags := { c.csr.flags with ht := false } } }
  | .fullComplete =>
    { c with
      csr := { c.csr with flags := { c.csr.flags with ht := false, tc := false } }
      h := { c.h with state := .idle } }

/-- The flag a poll waits for. -/
abbrev Sys2Proof.Claims.wanted (l : Level) (f : FlagSet) : Bool := if l = .halfComplete then f.ht else f.tc

/-- The expiry of a poll on channel `i`: the abort inside it, then `Timeout` (44_transfer_engine.md R277, R279). A state
that the abort does not accept is a violation of that inner command (00_scope.md R11); idle hardware is left alone; a
channel already suspended, or a budget of 0 where the expiry test is not strict, is reset at once; else the host waits
in the state `Abort`. -/
def Sys2Proof.Claims.pollExpires (s : State) (i : Nat) : Out :=
  let c := s.chan i
  if c.h.state ≠ .idle ∧ c.h.state ≠ .active then
    match s.cfg.build with
    | .checked => .next (s.answer (plainReply .timeout))
    | .debug => .fault .precondition
    | .unchecked => .refused .uncheckedViolation
  else if c.csr.idle then .next (s.answer (plainReply .timeout))
  else if c.csr.flags.suspf ∨ ¬ hasBudget s s.cfg.abortTimeout then
    repliedAt s i .timeout fun c => { wiped c with h := { c.h with state := .idle } }
  else
    .next { s.onChan i fun c => { c with ccr := suspRequested c, h := { c.h with state := .abort } } with
      app := { s.app with todo := [.waitRead ⟨i, .abort true, s.tick, s.cfg.abortTimeout⟩] } }

/-- `poll_for_transfer` at its first read of the status, at both levels: an error flag wins, then the wanted flag, else
it waits, or expires at once when its budget is 0 and the expiry test is not strict (44_transfer_engine.md R267, R277 to
R279). -/
def Obligations.PollResult : Prop :=
  ∀ (ch : ChId) (s : State) (l : Level) (timeout : Word), Ready s → Has s ch → App s → life s ch = .active →
    (s.chan ch.toNat).h.mode ≠ .linkedListCircular →
    let f := (s.chan ch.toNat).csr.flags
    (errorSet f = true → exec (.pollForTransfer ch l timeout) s = replied s ch .error (pollFailed s)) ∧
    (errorSet f = false → wanted l f = true → exec (.pollForTransfer ch l timeout) s = okAfter s ch (pollMet l)) ∧
    (errorSet f = false → wanted l f = false → hasBudget s timeout →
      exec (.pollForTransfer ch l timeout) s = waitsWith s ch id [.waitRead ⟨ch.toNat, .poll l, s.tick, timeout⟩]) ∧
    (errorSet f = false → wanted l f = false → ¬ hasBudget s timeout →
      exec (.pollForTransfer ch l timeout) s = pollExpires s ch.toNat)

/-- HOST-APP goes on with a wait: the turn, the wait and its channel. -/
abbrev Sys2Proof.Claims.WaitTurn (s : State) (w : Wait) (q : Nat) (rest : List Turn) : Prop :=
  s.agenda = .app q :: rest ∧ 64 ≤ q ∧ s.isr = none ∧ s.app.todo = [.waitRead w] ∧ w.ch < s.chans.length

/-- The state in which the turn runs, with the wait taken off. -/
abbrev Sys2Proof.Claims.inTurn (s : State) (q : Nat) (rest : List Turn) : State :=
  { s with agenda := rest, quantum := q, app := { s.app with todo := [] } }

/-- The budget of a wait is spent (44_transfer_engine.md R267). -/
abbrev Sys2Proof.Claims.Expired (s : State) (w : Wait) : Prop :=
  if s.cfg.timeoutStrict then w.budget.toNat < (s.tick - w.t0).toNat else w.budget.toNat ≤ (s.tick - w.t0).toNat

/-- The wait of `suspend`: met, waiting on, or expired (44_transfer_engine.md R267, R268). -/
def Obligations.SuspendWaitStep : Prop :=
  ∀ (s : State) (w : Wait) (q : Nat) (rest : List Turn), WaitTurn s w q rest → w.kind = .suspend →
    let c := s.chan w.ch
    (c.csr.flags.suspf = true →
      step s = repliedAt (inTurn s q rest) w.ch .ok fun c => { c with h := { c.h with state := .suspend } }) ∧
    (c.csr.flags.suspf = false → ¬ Expired s w → step s = .next { s with agenda := rest, quantum := q }) ∧
    (c.csr.flags.suspf = false → Expired s w → c.csr.idle = true →
      step s = repliedAt (inTurn s q rest) w.ch .error fun c => { wiped c with h := { c.h with state := .idle } }) ∧
    (c.csr.flags.suspf = false → Expired s w → c.csr.idle = false →
      step s = .next ((inTurn s q rest).answer (plainReply .error)))

/-- The wait of `abort`: it ends when the channel is suspended or idle, or when the budget is spent; the channel is reset
either way (44_transfer_engine.md R273, R274; inside a poll R279). -/
def Obligations.AbortWaitStep : Prop :=
  ∀ (s : State) (w : Wait) (q : Nat) (rest : List Turn) (inPoll : Bool), WaitTurn s w q rest →
    w.kind = .abort inPoll →
    let c := s.chan w.ch
    (c.csr.flags.suspf = true ∨ c.csr.idle = true →
      step s = repliedAt (inTurn s q rest) w.ch (if inPoll then .timeout else .ok)
        fun c => { wiped c with h := { c.h with state := .idle } }) ∧
    (c.csr.flags.suspf = false → c.csr.idle = false → ¬ Expired s w →
      step s = .next { s with agenda := rest, quantum := q }) ∧
    (c.csr.flags.suspf = false → c.csr.idle = false → Expired s w →
      step s = repliedAt (inTurn s q rest) w.ch (if inPoll then .timeout else .error)
        fun c => { wiped c with h := { c.h with state := .idle } })

/-- The wait of `poll_for_transfer`: an error, the wanted flag, waiting on, or expiry, which runs the inner abort
(44_transfer_engine.md R277 to R279). -/
def Obligations.PollWaitStep : Prop :=
  ∀ (s : State) (w : Wait) (q : Nat) (rest : List Turn) (l : Level), WaitTurn s w q rest → w.kind = .poll l →
    let f := (s.chan w.ch).csr.flags
    (errorSet f = true → step s = repliedAt (inTurn s q rest) w.ch .error (pollFailed s)) ∧
    (errorSet f = false → wanted l f = true → step s = repliedAt (inTurn s q rest) w.ch .ok (pollMet l)) ∧
    (errorSet f = false → wanted l f = false → ¬ Expired s w → step s = .next { s with agenda := rest, quantum := q }) ∧
    (errorSet f = false → wanted l f = false → Expired s w → step s = pollExpires (inTurn s q rest) w.ch)

/-! ## The interrupt and its handler -/

/-- The interrupt line and taking an interrupt. The line of a channel is high exactly when some flag reads 1 in CSR with
its enable reading 1 in CCR; under LAYOUT_U5, where a flag and its enable have one position, exactly when the two words
share a set bit in 0x7F00 (60_exceptions.md R352; 30_encoding.md R115; log 3). The handler of a channel whose line is
high starts when none runs, and nothing of the block is saved or changed; otherwise the turn passes (60_exceptions.md
R354, R357). -/
def Obligations.TakeInterruptResult : Prop :=
  (∀ (s : State) (i : Nat), s.cfg.wf = true →
    let L := s.cfg.layout
    let sr := csrWord L (s.chan i).csr
    let cr := ccrWord L (s.chan i).ccr
    (s.irqLine i = true ↔ ∃ p ∈ [(Fld.ht, Fld.htie), (.tc, .tcie), (.suspf, .suspie), (.dte, .dteie), (.ule, .uleie),
        (.use, .useie), (.tov, .toie)], p.1.test L sr = true ∧ p.2.test L cr = true) ∧
    (L = Layout.u5 → (s.irqLine i = true ↔ sr &&& cr &&& 0x00007F00 ≠ 0))) ∧
  ∀ (s : State) (n : Nat) (rest : List Turn), s.agenda = .irq n :: rest →
    (n < s.chans.length → s.isr = none → s.irqLine n = true →
      step s = .next { s with agenda := rest, isr := some ⟨n, false, none, none, []⟩ }) ∧
    (s.chans.length ≤ n ∨ s.isr.isSome = true ∨ s.irqLine n = false → step s = .next { s with agenda := rest })

/-- The handler of the channel has been entered and its callbacks issue no command. -/
abbrev Sys2Proof.Claims.Entered (s : State) (ch : ChId) : Prop :=
  s.isr = some ⟨ch.toNat, false, none, none, []⟩ ∧ 64 ≤ s.quantum ∧ Has s ch ∧
    ∀ slot, bodyOps s (callbackSlot slot (s.chan ch.toNat).h.cb) = []

/-- The handler returns: channel `ch` changed by `f`, the callbacks fired recorded, HOST-APP goes on. -/
abbrev Sys2Proof.Claims.handled (s : State) (ch : ChId) (f : Channel → Channel) (slots : List Slot) : Out :=
  .next { s.onChan ch.toNat f with isr := none, trace := s.trace ++ slots.map fun x => .callback x ch.toNat }

/-- The flags once the half-complete branch has run or has not (60_exceptions.md R363). -/
abbrev Sys2Proof.Claims.halfServed (c : Channel) : FlagSet := { c.csr.flags with ht := c.csr.flags.ht && !c.ccr.ie.ht }

/-- The half-complete callback fires when its flag acts. -/
abbrev Sys2Proof.Claims.halfFired (c : Channel) : List Slot := if c.csr.flags.ht && c.ccr.ie.ht then [.half] else []

/-- The error flags that act. -/
abbrev Sys2Proof.Claims.actingErrors (c : Channel) : FlagSet :=
  ⟨false, false, false, c.csr.flags.dte && c.ccr.ie.dte, c.csr.flags.use && c.ccr.ie.use,
   c.csr.flags.ule && c.ccr.ie.ule, c.csr.flags.tov && c.ccr.ie.tov⟩

/-- `irq_handler`: half-complete, then one of full-complete, suspended and error, in that order of priority
(60_exceptions.md R360, R361, R363 to R366, R356). -/
def Obligations.HandlerResult : Prop :=
  ∀ (ch : ChId) (s : State), Entered s ch →
    let c := s.chan ch.toNat
    let tc := c.csr.flags.tc && c.ccr.ie.tc
    let suspf := c.csr.flags.suspf && c.ccr.ie.suspf
    (tc = true → c.csr.idle = true → exec (.irqHandler ch) s = handled s ch (fun c =>
      { c with
        csr := { c.csr with flags := { halfServed c with tc := false } }
        ccr := { c.ccr with ie := FlagSet.empty }
        h := { c.h with state := .idle } }) (halfFired c ++ [.complete])) ∧
    (tc = true → c.csr.idle = false → exec (.irqHandler ch) s = handled s ch (fun c =>
      { c with csr := { c.csr with flags := { halfServed c with tc := false } } }) (halfFired c ++ [.complete])) ∧
    (tc = false → suspf = true → c.h.state = .abort → exec (.irqHandler ch) s = handled s ch (fun c =>
      { wiped c with
        ccr := { c.ccr with en := false, susp := false, ie := FlagSet.empty }
        h := { c.h with state := .idle } }) (halfFired c ++ [.abort])) ∧
    (tc = false → suspf = true → c.h.state ≠ .abort → exec (.irqHandler ch) s = handled s ch (fun c =>
      { c with
        csr := { c.csr with flags := { halfServed c with suspf := false } }
        h := { c.h with state := .suspend } }) (halfFired c ++ [.suspend])) ∧
    (tc = false → suspf = false → errorSet (actingErrors c) = true →
      exec (.irqHandler ch) s = handled s ch (fun c =>
        { wiped c with h := { c.h with
            state := .idle, lastError := lastErrorTo s (c.h.lastError ||| errorBits (actingErrors c)) c.h } })
        (halfFired c ++ [.error])) ∧
    (tc = false → suspf = false → errorSet (actingErrors c) = false →
      exec (.irqHandler ch) s = handled s ch (fun c => { c with csr := { c.csr with flags := halfServed c } })
        (halfFired c))

/-! ## The register bus -/

/-- `reg_read` and `status` return the register and change nothing (40_register_file.md R141, R149; 10_state.md R24, R26,
R27, R31, R34 to R36). The positions of the fields are a parameter, that SecAttr is a word of two named fields is the
model's choice (logs 3, 33). -/
def Obligations.RegisterReadResult : Prop :=
  ∀ (ch : ChId) (s : State), Ready s → Has s ch → s.cfg.wf = true →
    let L := s.cfg.layout
    let c := s.chan ch.toNat
    let reads (r : Reg) (w : Word) : Prop := exec (.regRead ch r) s = answered s (.word w)
    (reads .ctr1 c.ctr1 ∧ reads .ctr2 c.ctr2 ∧ reads .csar c.csar ∧ reads .cdar c.cdar ∧ reads .cllr c.cllr) ∧
    reads .cbr1 (if c.twoD then c.cbr1 else c.cbr1 &&& cbr1LinearMask L) ∧
    reads .ctr3 (if c.twoD then c.ctr3 else 0) ∧ reads .cbr2 (if c.twoD then c.cbr2 else 0) ∧
    reads .clbar (c.lba ++ (0 : BitVec 16)) ∧ reads .cfcr 0 ∧
    (s.cfg.features.security = false → reads .secAttr 0) ∧
    (s.cfg.features.security = true → ∃ w, reads .secAttr w ∧ Fld.chSec.test L w = c.secAttr.chSec ∧
      Fld.chPriv.test L w = c.secAttr.chPriv ∧ w &&& ~~~(Fld.chSec.mask L ||| Fld.chPriv.mask L) = 0) ∧
    (∃ w, reads .ccr w ∧ Fld.en.test L w = c.ccr.en ∧ Fld.susp.test L w = c.ccr.susp ∧ Fld.reset.test L w = false ∧
      FlagSet.ofEnables L w = c.ccr.ie ∧ Fld.prio.get L w = c.ccr.prio &&& Fld.prio.ones L) ∧
    (∃ w, reads .csr w ∧ exec (.status ch) s = answered s (.word w) ∧ Fld.idle.test L w = c.csr.idle ∧
      FlagSet.ofWord L w = c.csr.flags ∧ w &&& ~~~(Fld.idle.mask L ||| allFlags.toWord L) = 0) ∧
    (L = Layout.u5 → cbr1LinearMask L = 0x0800FFFF ∧ ~~~(Fld.idle.mask L ||| allFlags.toWord L) = 0xFFFF80FE)

/-- A withdrawn suspend request (40_register_file.md R153). -/
abbrev Sys2Proof.Claims.resumed (c : Channel) : Channel :=
  if c.ccr.susp then
    { c with
      ccr := { c.ccr with susp := false }
      csr := { c.csr with flags := { c.csr.flags with suspf := false } }
      hid := { c.hid with paused := false } }
  else c

/-- The flags cleared whose field of CFCR gets an odd value, `val f` (40_register_file.md R146; 10_state.md R35). -/
abbrev Sys2Proof.Claims.cfcrCleared (val : Fld → Option Word) (c : Channel) : Channel :=
  let keeps (f : Fld) : Bool := match val f with | some v => !v.getLsbD 0 | none => true
  let f := c.csr.flags
  { c with csr := { c.csr with flags :=
    { ht := f.ht && keeps .cht
      tc := f.tc && keeps .ctc
      suspf := f.suspf && keeps .csuspf
      dte := f.dte && keeps .cdte
      use := f.use && keeps .cuse
      ule := f.ule && keeps .cule
      tov := f.tov && keeps .ctov } } }

/-- One write of CCR in which field `f` gets the value `val f`, if any (40_register_file.md R142, R143). The order of the
effects, and that EN 0 does nothing and SUSP 0 withdraws the request, are the model's choice (log 17): EN, RESET, SUSP,
then the enables and PRIO are stored. -/
def Sys2Proof.Claims.ccrWritten (k : Cfg) (val : Fld → Option Word) (c : Channel) : Channel :=
  let bit (f : Fld) (old : Bool) : Bool :=
    match val f with
    | some v => v.getLsbD 0
    | none => old
  let c := if bit .en false then chEnable k c else c
  let c := if bit .reset false then wiped c else c
  let c := if bit .susp false then { c with ccr := suspRequested c } else if bit .susp true then c else resumed c
  { c with ccr := { c.ccr with
      ie :=
        { ht := bit .htie c.ccr.ie.ht
          tc := bit .tcie c.ccr.ie.tc
          suspf := bit .suspie c.ccr.ie.suspf
          dte := bit .dteie c.ccr.ie.dte
          use := bit .useie c.ccr.ie.use
          ule := bit .uleie c.ccr.ie.ule
          tov := bit .toie c.ccr.ie.tov }
      prio :=
        match val .prio with
        | some v => v &&& Fld.prio.ones k.layout
        | none => c.ccr.prio } }

/-- `reg_write` (40_register_file.md R143, R146, R155): of a link register or CLBAR on a disabled channel, of CCR, CSR,
CFCR and SecAttr on any channel. CSR ignores it, registers and fields the channel lacks ignore it. The order of the
effects of a CCR word is log 17. -/
def Obligations.RegisterWriteResult : Prop :=
  ∀ (ch : ChId) (s : State) (w : Word), Ready s → Has s ch →
    let L := s.cfg.layout
    let writes (r : Reg) (f : Channel → Channel) : Prop := exec (.regWrite ch r w) s = okAfter s ch f
    ((s.chan ch.toNat).ccr.en = false →
      (writes .ctr1 fun c => { c with ctr1 := w }) ∧ (writes .ctr2 fun c => { c with ctr2 := w }) ∧
      (writes .cbr1 fun c => { c with cbr1 := if c.twoD then w else w &&& cbr1LinearMask L }) ∧
      (writes .csar fun c => { c with csar := w }) ∧ (writes .cdar fun c => { c with cdar := w }) ∧
      (writes .ctr3 fun c => { c with ctr3 := if c.twoD then w else c.ctr3 }) ∧
      (writes .cbr2 fun c => { c with cbr2 := if c.twoD then w else c.cbr2 }) ∧
      (writes .cllr fun c => { c with cllr := w }) ∧
      (writes .clbar fun c => { c with lba := w.extractLsb' 16 16 })) ∧
    writes .csr id ∧
    (writes .cfcr fun c => { c with csr := { c.csr with flags := flagsDiff c.csr.flags (FlagSet.ofWord L w) } }) ∧
    (writes .secAttr fun c =>
      { c with secAttr :=
          if s.cfg.features.security then ⟨Fld.chSec.test L w, Fld.chPriv.test L w⟩ else c.secAttr }) ∧
    writes .ccr (ccrWritten s.cfg fun f => some (f.get L w))

/-- The link words written to CLLR of a disabled channel (30_encoding.md R104, R105): the update mask and the address
part, no other bit; under LAYOUT_U5 (log 3) the words of the table. That a link word is written by its own row is
log 28. -/
def Obligations.LinkWordWriteResult : Prop :=
  ∀ (ch : ChId) (s : State) (la : BitVec 14), Ready s → Has s ch → (s.chan ch.toNat).ccr.en = false →
    s.cfg.wf = true →
    let L := s.cfg.layout
    let addr : Word := la.setWidth 32 <<< 2
    let links (i : Instr) (w : Word) : Prop := exec i s = okAfter s ch fun c => { c with cllr := w }
    let carries (i : Instr) (m : BitVec 8) : Prop :=
      ∃ w, links i w ∧ linkUpd L w = m ∧ w &&& 0x0000FFFC = addr ∧ w &&& ~~~(linkFieldBits L) = 0
    links (.linkEnd ch) 0 ∧ carries (.linkStaticLinear ch la) 0b10011111 ∧
    carries (.linkStaticTwoDimensional ch la) s.cfg.nodeRegs2d ∧
    (∀ m : BitVec 7, carries (.linkDynamic ch m la) (1#1 ++ m)) ∧ (∀ m : BitVec 8, carries (.link ch m la) m) ∧
    (L = Layout.u5 → s.cfg.nodeRegs2d = 0b11111111 →
      links (.linkStaticLinear ch la) (0xF8010000 ||| addr) ∧
      links (.linkStaticTwoDimensional ch la) (0xFE010000 ||| addr))

/-- `field_write` and `ctrl_word_write`: only the named fields change, a wider value is truncated. Of a link register or
CLBAR on a disabled channel, of SecAttr, CSR (which ignores it), CFCR (which clears the flags whose fields get 1) and CCR
on any channel; CCR is written in one atomic step (40_register_file.md R142, R145, R146, R155; 30_encoding.md R111; the
order of several CCR fields: log 17). -/
def Obligations.FieldWriteResult : Prop :=
  ∀ (ch : ChId) (s : State), Ready s → Has s ch → s.cfg.wf = true →
    let L := s.cfg.layout
    let t (r : Reg) : Word := readReg s.cfg (s.chan ch.toNat) r
    ((s.chan ch.toNat).ccr.en = false →
      (∀ (f : Fld) (v : Word), isLinkReg f.reg = true → exec (.fieldWrite ch f v) s =
        okAfter s ch fun c => linkWrite L c f.reg ((t f.reg &&& ~~~(f.mask L)) ||| ((v <<< f.lo L) &&& f.mask L))) ∧
      (∀ (r : Reg) (fs : List (Fld × Word)), isLinkReg r = true → (Instr.ctrlWordWrite ch r fs).wf s.cfg = true →
        exec (.ctrlWordWrite ch r fs) s = okAfter s ch fun c =>
          linkWrite L c r ((t r &&& ~~~(fs.foldl (fun m p => m ||| p.1.mask L) 0)) ||| pack L fs))) ∧
    (∀ (f : Fld) (v : Word), f.reg = .ccr →
      exec (.fieldWrite ch f v) s = okAfter s ch (ccrWritten s.cfg fun g => if g = f then some v else none)) ∧
    (∀ fs, (Instr.ctrlWordWrite ch .ccr fs).wf s.cfg = true →
      exec (.ctrlWordWrite ch .ccr fs) s = okAfter s ch (ccrWritten s.cfg fun g => fs.lookup g)) ∧
    (∀ (f : Fld) (v : Word), f.reg = .cfcr →
      exec (.fieldWrite ch f v) s = okAfter s ch (cfcrCleared fun g => if g = f then some v else none)) ∧
    (∀ fs, (Instr.ctrlWordWrite ch .cfcr fs).wf s.cfg = true →
      exec (.ctrlWordWrite ch .cfcr fs) s = okAfter s ch (cfcrCleared fun g => fs.lookup g)) ∧
    (∀ (f : Fld) (v : Word), f.reg = .csr → exec (.fieldWrite ch f v) s = okAfter s ch id) ∧
    (∀ fs, exec (.ctrlWordWrite ch .csr fs) s = okAfter s ch id) ∧
    (∀ v : Word, s.cfg.features.security = true →
      (exec (.fieldWrite ch .chSec v) s = okAfter s ch fun c =>
        { c with secAttr := { c.secAttr with chSec := v.getLsbD 0 } }) ∧
      (exec (.fieldWrite ch .chPriv v) s = okAfter s ch fun c =>
        { c with secAttr := { c.secAttr with chPriv := v.getLsbD 0 } }) ∧
      ∀ u : Word, exec (.ctrlWordWrite ch .secAttr [(.chSec, v), (.chPriv, u)]) s = okAfter s ch fun c =>
        { c with secAttr := ⟨v.getLsbD 0, u.getLsbD 0⟩ }) ∧
    (s.cfg.features.security = false → ∀ (f : Fld) (v : Word), f.reg = .secAttr →
      exec (.fieldWrite ch f v) s = okAfter s ch id)

/-- The atomic micro-operations on CSR and CCR (40_register_file.md R146, R147, R152, R153, R156; a reset while data is
moving keeps the registers as R156 says: log 41). -/
def Obligations.ControlMicroOpResult : Prop :=
  ∀ (ch : ChId) (s : State), Ready s → Has s ch →
    (∀ x : FlagSet, exec (.flagClear ch x) s = okAfter s ch fun c =>
      let f := c.csr.flags
      { c with csr := { c.csr with flags :=
        ⟨f.ht && !x.ht, f.tc && !x.tc, f.suspf && !x.suspf, f.dte && !x.dte, f.use && !x.use, f.ule && !x.ule,
         f.tov && !x.tov⟩ } }) ∧
    (∀ x : FlagSet, exec (.ieWrite ch x) s = okAfter s ch fun c => { c with ccr := { c.ccr with ie := x } }) ∧
    (∀ x : FlagSet, exec (.ieSet ch x) s = okAfter s ch fun c =>
      let e := c.ccr.ie
      { c with ccr := { c.ccr with ie :=
        ⟨e.ht || x.ht, e.tc || x.tc, e.suspf || x.suspf, e.dte || x.dte, e.use || x.use, e.ule || x.ule,
         e.tov || x.tov⟩ } }) ∧
    (exec (.hwSuspendReq ch) s = okAfter s ch fun c => { c with ccr := suspRequested c }) ∧
    ((s.chan ch.toNat).ccr.susp = false → exec (.hwResume ch) s = okAfter s ch id) ∧
    ((s.chan ch.toNat).ccr.susp = true → exec (.hwResume ch) s = okAfter s ch fun c =>
      { c with
        ccr := { c.ccr with susp := false }
        csr := { c.csr with flags := { c.csr.flags with suspf := false } }
        hid := { c.hid with paused := false } }) ∧
    exec (.hwReset ch) s = okAfter s ch fun c => wiped c

/-! ## The descriptor decoder -/

/-- The bank indices of the registers that a channel has (10_state.md R20, R21). -/
abbrev Sys2Proof.Claims.banks (c : Channel) : List Nat := if c.twoD then [0, 1, 2, 3, 4, 5, 6, 7] else [0, 1, 2, 3, 4, 7]

/-- How many words of a fetch lie before the word of bank index `i` (40_register_file.md R150). -/
abbrev Sys2Proof.Claims.fetchPos (L : Layout) (c : Channel) (i : Nat) : Nat :=
  ((banks c).filter fun j => decide (j < i) && (linkUpd L c.cllr).getLsbD j).length

/-- The word a fetch loads for bank index `i`, or the old value when its update bit is clear. -/
abbrev Sys2Proof.Claims.fetched (s : State) (c : Channel) (i : Nat) (old : Word) : Word :=
  if (linkUpd s.cfg.layout c.cllr).getLsbD i then
    readWord s.mem (linkPtr c + BitVec.ofNat 32 (4 * fetchPos s.cfg.layout c i))
  else old

/-- The channel with the registers a fetch loads: one word per set update bit, lowest bank index first
(40_register_file.md R150, R151; 45_channel_engine.md R315; 93_implementation_defined.md U7). -/
def Sys2Proof.Claims.loaded (s : State) (ch : ChId) : Channel :=
  let L := s.cfg.layout
  let c := s.chan ch.toNat
  { c with
    ctr1 := fetched s c 0 c.ctr1
    ctr2 := fetched s c 1 c.ctr2
    cbr1 := if Fld.uCbr1.test L c.cllr then cbr1View L c (fetched s c 2 c.cbr1) else c.cbr1
    csar := fetched s c 3 c.csar
    cdar := fetched s c 4 c.cdar
    ctr3 := if c.twoD then fetched s c 5 c.ctr3 else c.ctr3
    cbr2 := if c.twoD then fetched s c 6 c.cbr2 else c.cbr2
    cllr := fetched s c 7 c.cllr }

/-- The fetch succeeds: the words of the registers that the mask names AND THE CHANNEL HAS stay in the window, and every
read of them is admitted (20_memory.md R78, R80). That the window test counts the channel's registers only, where R78
writes popcount(m), is the model's choice for a linear channel with a 2-D update bit (log 19). -/
abbrev Sys2Proof.Claims.Fetchable (s : State) (ch : ChId) : Prop :=
  let c := s.chan ch.toNat
  let n := ((banks c).filter fun j => (linkUpd s.cfg.layout c.cllr).getLsbD j).length
  ((linkPtr c).extractLsb' 0 16).toNat + 4 * n ≤ 65536 ∧
    ∀ j < n, s.admits ch.toNat .linkRead (linkPtr c + BitVec.ofNat 32 (4 * j)) 4 = true

/-- `link_load` as a row of its own on a running channel (log 30) loads the selected registers together, or raises ULE
and loads none (40_register_file.md R150, R151; 45_channel_engine.md R322). Its window test counts the channel's
registers only (log 19). -/
def Obligations.LinkLoadResult : Prop :=
  ∀ (ch : ChId) (s : State), Has s ch → (s.chan ch.toNat).ccr.en = true → (s.chan ch.toNat).hid.paused = false →
    (Fetchable s ch → exec (.linkLoad ch) s = .next (s.setChan ch.toNat (loaded s ch))) ∧
    (¬ Fetchable s ch → exec (.linkLoad ch) s = .next (s.onChan ch.toNat fun c =>
      stopped c { c.csr.flags with ule := true }))

/-- What a link step does after the load (45_channel_engine.md R316): an event still due is raised (R318, log 16); then
the reload copies, or the restored block size and count; then the node begins, or the next is fetched, or USE is
raised. -/
def Sys2Proof.Claims.linked (k : Cfg) (loadsCbr1 : Bool) (d0 : Channel) : Channel :=
  let L := k.layout
  let d1 : Channel :=
    { d0 with
      csr := { d0.csr with flags := { d0.csr.flags with tc := d0.csr.flags.tc || d0.hid.tcDue } }
      hid := { d0.hid with linkPending := false, tcDue := false } }
  let d := if loadsCbr1 then reloaded L d1
    else { d1 with cbr1 := cbr1View L d1 (Fld.bndt.ins L (d1.hid.blkReload.setWidth 32)
      (cbr1View L d1 (Fld.brc.ins L (d1.hid.brcReload.setWidth 32) d1.cbr1))) }
  if bndtOf L d = 0 then
    if d.cllr ≠ 0 ∧ Fld.uCbr1.test L d.cllr = true then { d with hid := { d.hid with linkPending := true } }
    else stopped d { d.csr.flags with use := true }
  else if Valid k d then blockBegun k d
  else stopped d { d.csr.flags with use := true }

/-- The instructions that are a link step of a channel: the step, its grant, and the node format that the link word in
CLLR selects (45_channel_engine.md R315, R316; 30_encoding.md R101 to R103, R107). -/
abbrev Sys2Proof.Claims.linkSteps (ch : ChId) (upd : BitVec 8) : List Instr :=
  [.eLink ch, .aGrant ch, .nLinS ch upd, .n2dS ch upd, .nLinD ch upd, .n2dD ch upd]

/-- The update mask that CLLR of a channel holds. -/
abbrev Sys2Proof.Claims.selected (s : State) (ch : ChId) : BitVec 8 :=
  linkUpd s.cfg.layout (s.chan ch.toNat).cllr

/-- A link step: load, reload or restore, begin the node (45_channel_engine.md R316, R323), in every event mode (1 to 3:
log 16). The rows of the node formats are log 29, the grant that takes its step at once log 14, the window test that
counts the channel's registers only log 19, the reserved trigger polarity log 47, the event due where USE is raised
log 50. -/
def Obligations.LinkStepResult : Prop :=
  ∀ (ch : ChId) (s : State) (i : Instr), i ∈ linkSteps ch (selected s ch) → linkEnabled s ch.toNat = true →
    Fetchable s ch →
    exec i s = .next (s.setChan ch.toNat
      (linked s.cfg (Fld.uCbr1.test s.cfg.layout (s.chan ch.toNat).cllr) (loaded s ch)))

/-- A link step whose fetch is refused or crosses the window raises ULE and changes no link register (log 19 for the
window of a linear channel; the rows of the node formats log 29; the grant, which takes its step at once, log 14). The
rows `E.RAISE_ULE` and `E.RAISE_USE` are the model's choice: the link steps that fail (log 13). Event modes 1 to 3 are
log 16, the event due of mode 2 where the step fails log 50, the reserved trigger polarity log 47 (45_channel_engine.md
R316, R318, R322, R323, R325, R331). -/
def Obligations.LinkStepFails : Prop :=
  ∀ (ch : ChId) (s : State), linkEnabled s ch.toNat = true →
    (¬ Fetchable s ch → ∀ i, i ∈ linkSteps ch (selected s ch) ∨ i = .eRaiseUle ch →
      exec i s = .next (s.onChan ch.toNat fun c => stopped c { c.csr.flags with ule := true })) ∧
    (Fetchable s ch →
      let d := linked s.cfg (Fld.uCbr1.test s.cfg.layout (s.chan ch.toNat).cllr) (loaded s ch)
      (d.ccr.en = false → exec (.eRaiseUse ch) s = .next (s.setChan ch.toNat d)) ∧
      (d.ccr.en = true → exec (.eRaiseUse ch) s = .next s) ∧ exec (.eRaiseUle ch) s = .next s) ∧
    (¬ Fetchable s ch → exec (.eRaiseUse ch) s = .next s)

/-! ## Data movement -/

/-- The address of the `j`-th source access of a data step (45_channel_engine.md R308). -/
abbrev Sys2Proof.Claims.srcAt (s : State) (ch : ChId) (j : Nat) : Word :=
  let c := s.chan ch.toNat
  if Fld.srcInc.test s.cfg.layout c.ctr1 then c.csar + BitVec.ofNat 32 (j * srcItem s.cfg.layout c) else c.csar

/-- The address of the `j`-th destination access of a data step (45_channel_engine.md R308). -/
abbrev Sys2Proof.Claims.dstAt (s : State) (ch : ChId) (j : Nat) : Word :=
  let c := s.chan ch.toNat
  if Fld.dstInc.test s.cfg.layout c.ctr1 then c.cdar + BitVec.ofNat 32 (j * dstItem s.cfg.layout c) else c.cdar

/-- The counter of free values after `j` source accesses: each read of a peripheral register takes one (log 9). -/
abbrev Sys2Proof.Claims.freshAt (s : State) (ch : ChId) (j : Nat) : Nat :=
  s.fresh + ((List.range j).filter fun m => s.isDevice (srcAt s ch m)).length

/-- The bytes that the `j`-th source access answers: those of memory, or of a peripheral register (20_memory.md R81). -/
abbrev Sys2Proof.Claims.itemRead (s : State) (ch : ChId) (j : Nat) : List Byte :=
  let n := srcItem s.cfg.layout (s.chan ch.toNat)
  if s.isDevice (srcAt s ch j) then
    (List.range n).map fun b => Config.deviceByte (srcAt s ch j + BitVec.ofNat 32 b) (freshAt s ch j)
  else readBytes s.mem (srcAt s ch j) n

/-- How many source accesses a data step makes (45_channel_engine.md R308). -/
abbrev Sys2Proof.Claims.readCount (s : State) (ch : ChId) : Nat :=
  let L := s.cfg.layout
  let c := s.chan ch.toNat
  min (max (srcItem L c) (dstItem L c)) (bndtOf L c) / srcItem L c

/-- The bytes that a data step writes: those read, or what `XFORM`, a free value, makes of them, in whole destination
items (45_channel_engine.md R308, R311; log 10). -/
def Sys2Proof.Claims.written (s : State) (ch : ChId) : List Byte :=
  let L := s.cfg.layout
  let c := s.chan ch.toNat
  let bytes := (List.range (readCount s ch)).flatMap (itemRead s ch)
  if isPlain L c then bytes
  else
    let d := Config.xform (xformArgs L c) bytes
    d.take (d.length / dstItem L c * dstItem L c)

/-- The bytes of the `j`-th destination access. -/
abbrev Sys2Proof.Claims.itemWritten (s : State) (ch : ChId) (j : Nat) : List Byte :=
  ((written s ch).drop (j * dstItem s.cfg.layout (s.chan ch.toNat))).take (dstItem s.cfg.layout (s.chan ch.toNat))

/-- How many destination accesses a data step makes. -/
abbrev Sys2Proof.Claims.writeCount (s : State) (ch : ChId) : Nat :=
  (written s ch).length / dstItem s.cfg.layout (s.chan ch.toNat)

/-- The state after the first `nr` source accesses and the first `nw` destination accesses of a data step: memory, the
history and the counter of free values; a peripheral register keeps nothing (20_memory.md R81; log 9). -/
def Sys2Proof.Claims.accessed (s : State) (ch : ChId) (nr nw : Nat) : State :=
  { s with
    mem := (List.range nw).foldl (fun m j =>
      if s.isDevice (dstAt s ch j) then m else writeBytes m (dstAt s ch j) (itemWritten s ch j)) s.mem
    trace := s.trace ++ ((List.range nr).map fun j => Event.read ch.toNat (srcAt s ch j) (itemRead s ch j))
      ++ (List.range nw).map fun j => Event.write ch.toNat (dstAt s ch j) (itemWritten s ch j)
    fresh := freshAt s ch nr }

/-- The first `n` source accesses of a data step are admitted (20_memory.md R80). -/
abbrev Sys2Proof.Claims.readsAdmitted (s : State) (ch : ChId) (n : Nat) : Prop :=
  ∀ m < n, s.admits ch.toNat .dataRead (srcAt s ch m) (srcItem s.cfg.layout (s.chan ch.toNat)) = true

/-- The first `n` destination accesses of a data step are admitted (20_memory.md R80). -/
abbrev Sys2Proof.Claims.writesAdmitted (s : State) (ch : ChId) (n : Nat) : Prop :=
  ∀ m < n, s.admits ch.toNat .dataWrite (dstAt s ch m) (dstItem s.cfg.layout (s.chan ch.toNat)) = true

/-- A plain data step may be taken and its two accesses are admitted; both addresses are memory, not peripheral
registers. -/
abbrev Sys2Proof.Claims.PlainStep (s : State) (ch : ChId) : Prop :=
  let L := s.cfg.layout
  let c := s.chan ch.toNat
  dataEnabled s ch.toNat = true ∧ isPlain L c = true ∧ srcItem L c ≤ bndtOf L c ∧ s.isDevice c.csar = false ∧
    s.isDevice c.cdar = false ∧ s.admits ch.toNat .dataRead c.csar (srcItem L c) = true ∧
    s.admits ch.toNat .dataWrite c.cdar (srcItem L c) = true

/-- An address moved by an offset in the direction of its bit. -/
abbrev Sys2Proof.Claims.offset (dec : Bool) (ofs a : Word) : Word := if dec then a - ofs else a + ofs

/-- `update_bndt` and `update_addresses` for a step that read `nr` bytes and wrote `nw` (45_channel_engine.md R309, R310);
in event mode 3 HT rises only in a node without a next one (R318; log 16). -/
def Sys2Proof.Claims.moved (k : Cfg) (nr nw : Nat) (c : Channel) : Channel :=
  let L := k.layout
  let srcEnds : Bool := decide (c.hid.sbLeft ≤ nr) || decide (bndtOf L c = nr)
  let dstEnds : Bool := decide (c.hid.dbLeft ≤ nw) || decide (bndtOf L c = nr)
  let a := if Fld.srcInc.test L c.ctr1 then c.csar + BitVec.ofNat 32 nr else c.csar
  let b := if Fld.dstInc.test L c.ctr1 then c.cdar + BitVec.ofNat 32 nw else c.cdar
  let half : Bool := decide (c.hid.unitMoved < (c.hid.unitTotal + 1) / 2) &&
    decide ((c.hid.unitTotal + 1) / 2 ≤ c.hid.unitMoved + nr) &&
    (Fld.eventMode.get L c.ctr2 != 3 || c.cllr == 0)
  { c with
    cbr1 := cbr1View L c (Fld.bndt.ins L (BitVec.ofNat 32 (bndtOf L c - nr)) c.cbr1)
    csar := if c.twoD && srcEnds then offset (Fld.srcDec.test L c.cbr1) (Fld.srcBurstOfs.get L c.ctr3) a else a
    cdar := if c.twoD && dstEnds then offset (Fld.dstDec.test L c.cbr1) (Fld.dstBurstOfs.get L c.ctr3) b else b
    csr := { c.csr with flags := { c.csr.flags with ht := c.csr.flags.ht || half } }
    hid := { c.hid with
      unitMoved := c.hid.unitMoved + nr
      sbLeft := if srcEnds then srcBurstBytes k c else c.hid.sbLeft - nr
      dbLeft := if dstEnds then dstBurstBytes k c else c.hid.dbLeft - nw } }

/-- `complete()` (45_channel_engine.md R314): in event mode 3, and where an event is still due, TC rises here (R318;
log 16). -/
def Sys2Proof.Claims.completed (L : Layout) (c : Channel) : Channel :=
  { c with
    ccr := { c.ccr with en := false, susp := false }
    csr := ⟨true, { c.csr.flags with tc := c.csr.flags.tc || Fld.eventMode.get L c.ctr2 == 3 || c.hid.tcDue }⟩
    hid := { c.hid with tcDue := false } }

/-- `block_end` (45_channel_engine.md R313): the block offsets; TC at every block end in event mode 0, at the last one of
the node in mode 1, due after the last one in mode 2 (R318; log 16); then the next block, the next node, or the
completion. -/
def Sys2Proof.Claims.blockEnded (k : Cfg) (c : Channel) : Channel :=
  let L := k.layout
  let mode := Fld.eventMode.get L c.ctr2
  let last : Bool := brcOf L c == 0
  let d : Channel :=
    { c with
      csar := if c.twoD then offset (Fld.blkSrcDec.test L c.cbr1) (Fld.blkSrcOfs.get L c.cbr2) c.csar else c.csar
      cdar := if c.twoD then offset (Fld.blkDstDec.test L c.cbr1) (Fld.blkDstOfs.get L c.cbr2) c.cdar else c.cdar
      csr := { c.csr with flags := { c.csr.flags with tc := c.csr.flags.tc || mode == 0 || mode == 1 && last } }
      hid := { c.hid with tcDue := c.hid.tcDue || mode == 2 && last } }
  if 0 < brcOf L c then
    let counted := Fld.brc.ins L (Fld.brc.get L c.cbr1 - 1) c.cbr1
    { d with
      cbr1 := Fld.bndt.ins L (c.hid.blkReload.setWidth 32) counted
      hid := { d.hid with
        unitTotal := if mode = 0 then c.hid.blkReload.toNat else c.hid.unitTotal
        unitMoved := if mode = 0 then 0 else c.hid.unitMoved
        sbLeft := srcBurstBytes k c
        dbLeft := dstBurstBytes k c } }
  else if c.cllr ≠ 0 then { d with hid := { d.hid with linkPending := true } }
  else completed L d

/-- A plain data step: one item read at CSAR and the same bytes written at CDAR, both recorded; the block size, the
addresses and the bursts move on; HT at the half point; the block ends when its last bytes are moved. `E.DATA` and its
grant, which takes its step at once (log 14; 45_channel_engine.md R308 to R310, R313, R314; event modes 1 to 3: log
16). -/
def Obligations.PlainDataStepResult : Prop :=
  ∀ (ch : ChId) (s : State), s.cfg.wf = true → PlainStep s ch →
    let c := s.chan ch.toNat
    let n := srcItem s.cfg.layout c
    let bytes := readBytes s.mem c.csar n
    let d := moved s.cfg n n c
    ∀ i, i = .eData ch ∨ i = .aGrant ch → exec i s = .next
      ({ s with
          mem := writeBytes s.mem c.cdar bytes
          trace := s.trace ++ [Event.read ch.toNat c.csar bytes] ++ [Event.write ch.toNat c.cdar bytes] }.setChan ch.toNat
        (if bndtOf s.cfg.layout c = n then blockEnded s.cfg d else d))

/-- Any data step whose accesses are all admitted, with any widths, any number of items, any transform (its bytes a free
value: log 10) and any peripheral registers (log 9): the items read in ascending order, then those written; then the
registers move on as `update_bndt`, `update_addresses` and the block end say, in every event mode (1 to 3, when HT and TC
rise: log 16). `E.DATA` and its grant; the row `E.RAISE_DTE` then changes nothing (log 13; 45_channel_engine.md R308 to
R311, R313, R318; 20_memory.md R81; log 14). -/
def Obligations.DataStepResult : Prop :=
  ∀ (ch : ChId) (s : State), s.cfg.wf = true → dataEnabled s ch.toNat = true →
    readsAdmitted s ch (readCount s ch) → writesAdmitted s ch (writeCount s ch) →
    let L := s.cfg.layout
    let c := s.chan ch.toNat
    let g := min (max (srcItem L c) (dstItem L c)) (bndtOf L c)
    let d := moved s.cfg g (written s ch).length c
    (∀ i, i = .eData ch ∨ i = .aGrant ch → exec i s = .next
      ((accessed s ch (readCount s ch) (writeCount s ch)).setChan ch.toNat
        (if bndtOf L c = g then blockEnded s.cfg d else d))) ∧
    exec (.eRaiseDte ch) s = .next s

/-- Any data step with a refused access raises DTE and changes no register; the accesses before the refused one have
happened, the writes among them have landed, none after it is made. The row `E.RAISE_DTE` is that step (log 13;
45_channel_engine.md R308, R321, R325; 20_memory.md R80; the grant: log 14; peripheral registers: log 9; the bytes of a
transform: log 10). -/
def Obligations.RefusedAccessResult : Prop :=
  ∀ (ch : ChId) (s : State) (i : Instr) (j : Nat), i = .eData ch ∨ i = .eRaiseDte ch ∨ i = .aGrant ch →
    let failed := stopped (s.chan ch.toNat) { (s.chan ch.toNat).csr.flags with dte := true }
    dataEnabled s ch.toNat = true →
    (j < readCount s ch → readsAdmitted s ch j →
      s.admits ch.toNat .dataRead (srcAt s ch j) (srcItem s.cfg.layout (s.chan ch.toNat)) = false →
      exec i s = .next ((accessed s ch j 0).setChan ch.toNat failed)) ∧
    (readsAdmitted s ch (readCount s ch) → j < writeCount s ch → writesAdmitted s ch j →
      s.admits ch.toNat .dataWrite (dstAt s ch j) (dstItem s.cfg.layout (s.chan ch.toNat)) = false →
      exec i s = .next ((accessed s ch (readCount s ch) j).setChan ch.toNat failed))

/-- The rows `E.BLOCK_END` and `E.COMPLETE` on their own: that they can be taken alone is the model's choice, since
45_channel_engine.md R331 says that they are no steps (log 13). What they do is R313 and R314; event modes 1 to 3 are
log 16. -/
def Obligations.BlockEndResult : Prop :=
  ∀ (ch : ChId) (s : State), Has s ch → s.cfg.wf = true →
    let L := s.cfg.layout
    let c := s.chan ch.toNat
    c.ccr.en = true → c.hid.paused = false → bndtOf L c = 0 →
    (c.hid.linkPending = false → exec (.eBlockEnd ch) s = .next (s.onChan ch.toNat (blockEnded s.cfg))) ∧
    (brcOf L c = 0 → c.cllr = 0 → exec (.eComplete ch) s = .next (s.onChan ch.toNat (completed L)))

/-! ## Gates, pauses and frames of the engine -/

/-- The engine's rows, on one channel. -/
abbrev Sys2Proof.Claims.engineRows (ch : ChId) (upd : BitVec 8) : List Instr :=
  linkSteps ch upd ++
    [.eData ch, .eBlockEnd ch, .eComplete ch, .eRaiseDte ch, .eRaiseUle ch, .eRaiseUse ch, .linkLoad ch]

/-- A channel that is disabled or paused takes none of the engine's steps (45_channel_engine.md R300, R327, R331); that a
row which is not enabled changes nothing is the model's choice (log 12). -/
def Obligations.StoppedChannelDoesNotMove : Prop :=
  ∀ (ch : ChId) (upd : BitVec 8) (s : State), (s.chan ch.toNat).ccr.en = false ∨ (s.chan ch.toNat).hid.paused = true →
    ∀ i ∈ engineRows ch upd, exec i s = .next s

/-- The suspend acknowledge and the trigger overrun (45_channel_engine.md R324, R326); that the rows change nothing where
they are not enabled, on a disabled channel too, is the model's choice (log 12). -/
def Obligations.AckAndOverrunResult : Prop :=
  ∀ (ch : ChId) (s : State), Has s ch →
    let c := s.chan ch.toNat
    let pol := Fld.trigPol.get s.cfg.layout c.ctr2
    (c.ccr.en = true → c.ccr.susp = true → c.hid.paused = false →
      exec (.eSuspAck ch) s = .next (s.onChan ch.toNat fun c =>
        { c with
          csr := { c.csr with flags := { c.csr.flags with suspf := true } }
          hid := { c.hid with paused := true } })) ∧
    (c.ccr.en = false ∨ c.ccr.susp = false ∨ c.hid.paused = true → exec (.eSuspAck ch) s = .next s) ∧
    (c.ccr.en = true → pol = 1 ∨ pol = 2 → c.pins.trigOverrun = true →
      exec (.eRaiseTo ch) s = .next (s.onChan ch.toNat fun c =>
        { c with csr := { c.csr with flags := { c.csr.flags with tov := true } } })) ∧
    (c.ccr.en = false ∨ pol = 0 ∨ pol = 3 ∨ c.pins.trigOverrun = false → exec (.eRaiseTo ch) s = .next s)

/-- The next data step is not the first of a block: the block size has moved from its reload copy (46_arbiter.md R342;
log 15). -/
abbrev Sys2Proof.Claims.inBlock (L : Layout) (c : Channel) : Prop := bndtOf L c ≠ c.hid.blkReload.toNat

/-- The next data step is not the first of a burst of the requesting side, the destination with DST_REQ, else the source
(46_arbiter.md R342; 45_channel_engine.md R301; log 15). -/
abbrev Sys2Proof.Claims.inBurst (k : Cfg) (c : Channel) : Prop :=
  let L := k.layout
  let bytes (len width : Word) : Nat := (len.toNat + 1) * if k.burstBeats then 2 ^ width.toNat else 1
  if Fld.dstReq.test L c.ctr2 then
    c.hid.dbLeft ≠ bytes (Fld.dstBurst.get L c.ctr1) (Fld.dstWidth.get L c.ctr1)
  else c.hid.sbLeft ≠ bytes (Fld.srcBurst.get L c.ctr1) (Fld.srcWidth.get L c.ctr1)

/-- The request gate is open (46_arbiter.md R342; its boundaries: log 15). -/
abbrev Sys2Proof.Claims.RequestOpen (k : Cfg) (c : Channel) : Prop :=
  let L := k.layout
  Fld.swReq.test L c.ctr2 = true ∨ c.pins.req = true ∨
    if Fld.blockReq.test L c.ctr2 then inBlock L c else inBurst k c

/-- No trigger is configured, or its input holds (46_arbiter.md R342). -/
abbrev Sys2Proof.Claims.Triggered (L : Layout) (c : Channel) : Prop :=
  (Fld.trigPol.get L c.ctr2 ≠ 1 ∧ Fld.trigPol.get L c.ctr2 ≠ 2) ∨ c.pins.trig = true

/-- The trigger gate is open at a data step (46_arbiter.md R342; its boundaries: log 15). -/
abbrev Sys2Proof.Claims.TriggerOpen (k : Cfg) (c : Channel) : Prop :=
  let L := k.layout
  let mode := Fld.trigMode.get L c.ctr2
  Triggered L c ∨ mode = 2 ∨ (mode = 0 ∧ inBlock L c) ∨
    (mode = 1 ∧ (inBlock L c ∨ brcOf L c ≠ c.hid.brcReload.toNat)) ∨ (mode = 3 ∧ inBurst k c)

/-- `wants` (46_arbiter.md R341). -/
abbrev Sys2Proof.Claims.Wants (k : Cfg) (c : Channel) : Prop :=
  c.ccr.en = true ∧ c.hid.paused = false ∧
    (c.hid.linkPending = true ∨ (0 < bndtOf k.layout c ∧ RequestOpen k c ∧ TriggerOpen k c))

/-- A channel may be granted (46_arbiter.md R343): it wants the bus and, under StrictPriority, no channel of a higher
class wants it. -/
abbrev Sys2Proof.Claims.MayBeGranted (s : State) (i : Nat) : Prop :=
  i < s.chans.length ∧ Wants s.cfg (s.chan i) ∧
    (s.cfg.strictPriority = true → ∀ j < s.chans.length, Wants s.cfg (s.chan j) →
      (s.chan j).ccr.prio.toNat ≤ (s.chan i).ccr.prio.toNat)

/-- When the gates are open, which channel may be granted under either policy, and what a grant allows: a data step
outside a link step, a link step with the trigger gate of the node mode open. A grant of a channel that may not be
granted, or whose step is not enabled, changes nothing, which is the model's choice, as is that a grant takes its step at
once (logs 12, 14; 46_arbiter.md R341 to R343; the boundaries of the gates: log 15). -/
def Obligations.GrantPolicy : Prop :=
  ∀ (s : State) (ch : ChId),
    let i := ch.toNat
    let c := s.chan i
    (grantable s i = true ↔ MayBeGranted s i) ∧
    (dataEnabled s i = true ↔ MayBeGranted s i ∧ c.hid.linkPending = false) ∧
    (linkEnabled s i = true ↔ MayBeGranted s i ∧ c.hid.linkPending = true ∧
      (Triggered s.cfg.layout c ∨ Fld.trigMode.get s.cfg.layout c.ctr2 ≠ 2)) ∧
    (¬ MayBeGranted s i → ∀ r ∈ [Instr.aGrant ch, .eData ch, .eLink ch], exec r s = .next s) ∧
    (c.hid.linkPending = true → exec (.aGrant ch) s = exec (.eLink ch) s) ∧
    (c.hid.linkPending = false → exec (.aGrant ch) s = exec (.eData ch) s)

/-! ## The environment -/

/-- A turn that HOST-APP cannot take: a handler runs, or a command is in progress (00_scope.md R12; 60_exceptions.md
R357). -/
abbrev Sys2Proof.Claims.Held (s : State) : Prop := s.isr.isSome = true ∨ s.app.todo ≠ []

/-- The turns of the environment and the stores of the host (the schedule is the model's: log 1). The tick advances by 1
modulo 2^32 (10_state.md R50); the inputs of a channel are what the environment sets (R52); a byte that the host stores
reads back and every other byte reads as before; a filled node is stored word by word with its kind tag (R46), and a
later fetch reads its words (20_memory.md R88). Nothing else changes; a store passes while HOST-APP is held. That a store
is one byte wide is the model's choice (log 55), and so is that this turn records the kind tag (log 24). -/
def Obligations.EnvironmentTurns : Prop :=
  ∀ (s : State) (rest : List Turn), Memory.wf s.mem = true →
    (s.agenda = .tick :: rest → step s = .next { s with agenda := rest, tick := s.tick + 1 }) ∧
    (∀ (n : Nat) (req trig ovr : Bool), s.agenda = .pins n req trig ovr :: rest →
      step s = .next ({ s with agenda := rest }.onChan n fun c => { c with pins := ⟨req, trig, ovr⟩ })) ∧
    (∀ (a : Word) (v : Byte), s.agenda = .store a v :: rest →
      (¬ Held s → ∃ m, step s = .next { s with agenda := rest, mem := m } ∧ memRead m a.toNat = v ∧
        ∀ x, x ≠ a.toNat → memRead m x = memRead s.mem x) ∧
      (Held s → step s = .next { s with agenda := rest })) ∧
    ∀ (a : Word) (n : Node) (q : Nat), s.agenda = .node a n q :: rest →
      (¬ Held s → 9 ≤ q →
        let ws := nodeWordList s.cfg n
        ∃ m, step s = .next { s with
            agenda := rest, quantum := q, mem := m, nodeKinds := putKey s.nodeKinds a (nodeKind n) } ∧
          (∀ j < ws.length, readWord m (a + BitVec.ofNat 32 (4 * j)) = imgWord ws j) ∧
          ∀ x : Word, 4 * ws.length ≤ (x - a).toNat → memRead m x.toNat = memRead s.mem x.toNat) ∧
      (Held s → step s = .next { s with agenda := rest })

/-! ## Frames of the engine -/

/-- What an engine row leaves alone: every other channel; of its own channel the handle, CLBAR, the interrupt enables,
the priority, the security attributes and the inputs; the queues, the tick and the host contexts; and every byte of
memory but those of a data step's destination items (20_memory.md R85; 40_register_file.md R144; 60_exceptions.md
R373). -/
def Obligations.EngineFrame : Prop :=
  ∀ (ch : ChId) (upd : BitVec 8) (s t : State) (i : Instr),
    i ∈ engineRows ch upd ++ [.eStart ch, .eSuspAck ch, .eRaiseTo ch] → exec i s = .next t →
    let L := s.cfg.layout
    let c := s.chan ch.toNat
    let d := t.chan ch.toNat
    (∀ j, j ≠ ch.toNat → t.chan j = s.chan j) ∧ t.chans.length = s.chans.length ∧
    d.h = c.h ∧ d.lba = c.lba ∧ d.ccr.ie = c.ccr.ie ∧ d.ccr.prio = c.ccr.prio ∧ d.secAttr = c.secAttr ∧
    d.pins = c.pins ∧ d.twoD = c.twoD ∧
    t.cfg = s.cfg ∧ t.queues = s.queues ∧ t.nodeKinds = s.nodeKinds ∧ t.tick = s.tick ∧ t.app = s.app ∧
    t.isr = s.isr ∧ t.irqReply = s.irqReply ∧ t.agenda = s.agenda ∧ t.quantum = s.quantum ∧
    (i ≠ .eData ch → i ≠ .aGrant ch → i ≠ .eRaiseDte ch → t.mem = s.mem) ∧
    let reads := sourceReads ch.toNat (srcItem L c)
      (accessAddrs c.csar (Fld.srcInc.test L c.ctr1) (srcItem L c) (stepBytes L c / srcItem L c)) [] s
    (∀ bytes, reads.1 = some bytes → ∀ x : Word,
      (∀ k < (transform L c bytes).length / dstItem L c, ∀ j < dstItem L c,
        x ≠ (if Fld.dstInc.test L c.ctr1 then c.cdar + BitVec.ofNat 32 (k * dstItem L c) else c.cdar) + BitVec.ofNat 32 j) →
      memRead t.mem x.toNat = memRead s.mem x.toNat) ∧
    (reads.1 = none → t.mem = s.mem)

/-! ## The node codec -/

/-- The configuration of a register image (41_node_codec.md R177); the two security bits are answered whatever the
feature (log 45). -/
abbrev Sys2Proof.Claims.imageConfig (L : Layout) (ctr1 ctr2 cbr1 csar cdar : Word) (rb : Option RepeatBlock) : NodeConfig where
  request := Fld.reqSel.get L ctr2
  direction := if Fld.swReq.test L ctr2 then .memToMem else if Fld.dstReq.test L ctr2 then .memToPeriph else .periphToMem
  srcInc := if Fld.srcInc.test L ctr1 then .incremented else .fixed
  dstInc := if Fld.dstInc.test L ctr1 then .incremented else .fixed
  srcWidth := widthOf (Fld.srcWidth.get L ctr1)
  dstWidth := widthOf (Fld.dstWidth.get L ctr1)
  hwMode := if Fld.blockReq.test L ctr2 then .block else .burst
  srcPort := if Fld.srcPort.test L ctr1 then .port1 else .port0
  dstPort := if Fld.dstPort.test L ctr1 then .port1 else .port0
  srcBurstLen := Fld.srcBurst.get L ctr1 + 1
  dstBurstLen := Fld.dstBurst.get L ctr1 + 1
  trigger := ⟨Fld.trigSel.get L ctr2, polarityOf (Fld.trigPol.get L ctr2), trigModeOf (Fld.trigMode.get L ctr2)⟩
  data := ⟨Fld.srcByteXchg.test L ctr1, Fld.dstByteXchg.test L ctr1, Fld.dstHalfXchg.test L ctr1, Fld.padAlign.get L ctr1⟩
  srcSec := Fld.srcSec.test L ctr1
  dstSec := Fld.dstSec.test L ctr1
  srcAddr := csar
  dstAddr := cdar
  size := Fld.bndt.get L cbr1
  rb := rb

/-- `fill_node` packs the fields, a wider value truncated, the link word 0; `decode_node` reads them back without any
check; neither changes anything else (41_node_codec.md R174, R177). The model's choices in it: a reserved width or
polarity given to `fill_node` is stored as its code 3 (log 44), and `decode_node` answers the two security bits whatever
the feature (log 45). -/
def Obligations.CodecResult : Prop :=
  ∀ (s : State) (c : NodeConfig), Ready s →
    let L := s.cfg.layout
    let sec := s.cfg.features.security
    let w0 := pack L [(.srcWidth, c.srcWidth.code), (.srcInc, c.srcInc.code), (.dstWidth, c.dstWidth.code),
      (.dstInc, c.dstInc.code), (.srcBurst, c.srcBurstLen - 1), (.dstBurst, c.dstBurstLen - 1),
      (.srcByteXchg, .ofBool c.data.srcByteXchg), (.dstByteXchg, .ofBool c.data.dstByteXchg),
      (.dstHalfXchg, .ofBool c.data.dstHalfXchg), (.padAlign, c.data.padAlign), (.srcPort, c.srcPort.code),
      (.dstPort, c.dstPort.code), (.srcSec, .ofBool (sec && c.srcSec)), (.dstSec, .ofBool (sec && c.dstSec))]
    let w1 := pack L [(.reqSel, c.request), (.swReq, .ofBool (c.direction == .memToMem)),
      (.dstReq, .ofBool (c.direction == .memToPeriph)), (.blockReq, .ofBool (c.hwMode == .block)),
      (.trigSel, c.trigger.source), (.trigPol, c.trigger.polarity.code), (.trigMode, c.trigger.mode.code),
      (.eventMode, 0)]
    let size := pack L [(.bndt, c.size)]
    exec (.fillNode .linear c) s = answered s (.node (.linear w0 w1 size c.srcAddr c.dstAddr 0)) ∧
    (∀ r, c.rb = some r → exec (.fillNode .twoDimensional c) s = answered s (.node (.twoDimensional w0 w1
      (size ||| pack L [(.brc, r.blockCount - 1), (.srcDec, .ofBool (r.srcBurstDir == .subtract)),
        (.dstDec, .ofBool (r.dstBurstDir == .subtract)), (.blkSrcDec, .ofBool (r.srcBlockDir == .subtract)),
        (.blkDstDec, .ofBool (r.dstBlockDir == .subtract))])
      c.srcAddr c.dstAddr (pack L [(.srcBurstOfs, r.srcBurstOfs), (.dstBurstOfs, r.dstBurstOfs)])
      (pack L [(.blkSrcOfs, r.srcBlockOfs), (.blkDstOfs, r.dstBlockOfs)]) 0))) ∧
    (∀ a b d e f g, exec (.decodeNode (.linear a b d e f g)) s =
      answered s (.nodeConfig (imageConfig L a b d e f none) .linear)) ∧
    ∀ a b d e f x y g, exec (.decodeNode (.twoDimensional a b d e f x y g)) s =
      answered s (.nodeConfig (imageConfig L a b d e f (some
        { blockCount := Fld.brc.get L d + 1
          srcBurstOfs := Fld.srcBurstOfs.get L x
          srcBurstDir := if Fld.srcDec.test L d then .subtract else .add
          dstBurstOfs := Fld.dstBurstOfs.get L x
          dstBurstDir := if Fld.dstDec.test L d then .subtract else .add
          srcBlockOfs := Fld.blkSrcOfs.get L y
          srcBlockDir := if Fld.blkSrcDec.test L d then .subtract else .add
          dstBlockOfs := Fld.blkDstOfs.get L y
          dstBlockDir := if Fld.blkDstDec.test L d then .subtract else .add })) .twoDimensional)

/-- Decoding a filled node gives the configuration and the kind back, for every valid configuration, in every well-formed
layout (41_node_codec.md R172, R178). -/
def Obligations.FillDecodeRoundTrip : Prop :=
  ∀ (s : State) (kind : Kind) (c : NodeConfig), Ready s → s.cfg.wf = true → validConfig s.cfg kind c = true →
    ∃ n, exec (.fillNode kind c) s = answered s (.node n) ∧ exec (.decodeNode n) s = answered s (.nodeConfig c kind)

/-! ## Queues -/

/-- The address of the link word of a static node: its last word (30_encoding.md R101, R102). -/
abbrev Sys2Proof.Claims.linkAt (k : Cfg) (kind : Kind) (a : Word) : Word :=
  a + BitVec.ofNat 32 (4 * (nodeWords k kind - 1))

/-- The link word that node `i` of a static queue must have (42_queue.md R192). -/
def Sys2Proof.Claims.required (k : Cfg) (v : Queue) (i : Nat) : Word :=
  match (queueAddrs v)[i + 1]? with
  | some a => linkStatic k v.kind a
  | none =>
    match v.fc with
    | some f => linkStatic k v.kind f
    | none => 0

/-- The memory with the link word of node `i` written as the static queue requires it; no node, no write. -/
def Sys2Proof.Claims.relinked (k : Cfg) (v : Queue) (i : Nat) (m : Memory) : Memory :=
  match (queueAddrs v)[i]? with
  | some a => writeWord m (linkAt k v.kind a) (required k v i)
  | none => m

/-- A static queue of legal addresses under the name `q` (42_queue.md R191, R194 and section 4). -/
abbrev Sys2Proof.Claims.Editable (s : State) (q : Word) (v : Queue) : Prop :=
  s.queue q = some v ∧ v.format = .static ∧ nodesLegal s v.kind (queueAddrs v) = true

/-- The reply `Ok` after memory, one queue record and the kind tags have changed, everything else kept. -/
abbrev Sys2Proof.Claims.edited (s : State) (q : Word) (v : Queue) (m : Memory) (kinds : List (Word × Kind)) : Out :=
  .next (({ s with mem := m, nodeKinds := kinds }.putQueue q v).answer (plainReply .ok))

/-- The structural operations: which link words they write, at which addresses, and the new record (42_queue.md R208 to
R213). The model's choices: `queue_init` asks for no format, so it replaces a dynamic record too, `queue_clear_circular`
of an empty queue answers `Ok`, and the order among the writes of one operation (log 40); insertion and replacement
record the new node's kind tag (log 24). -/
def Obligations.QueueEditResult : Prop :=
  ∀ (s : State) (q : Word), Ready s →
    (∀ k, exec (.queueInit q k) s = edited s q ⟨k, .static, [], none⟩ s.mem s.nodeKinds) ∧
    (∀ (v : Queue) (pos a : Word), Editable s q v →
      let n := pos.toNat
      let v' := { v with nodes := v.nodes.take n ++ [⟨a, updAll s.cfg v.kind⟩] ++ v.nodes.drop n }
      n ≤ v.nodes.length → nodesLegal s v.kind (queueAddrs v') = true →
      exec (.queueInsert q pos a) s = edited s q v'
        (relinked s.cfg v' n (if n = 0 then s.mem else relinked s.cfg v' (n - 1) s.mem)) (putKey s.nodeKinds a v.kind)) ∧
    (∀ (v : Queue) (pos : Word) (x : QNode), Editable s q v → v.nodes[pos.toNat]? = some x →
      let n := pos.toNat
      let v' := { v with nodes := v.nodes.eraseIdx n, fc := if v.fc = some x.addr then none else v.fc }
      let cut := writeWord s.mem (linkAt s.cfg v.kind x.addr) 0
      let joined := if n = 0 then cut else relinked s.cfg v' (n - 1) cut
      nodesLegal s v.kind (queueAddrs v') = true →
      exec (.queueRemove q pos) s = edited s q v'
        (if v.fc = some x.addr then relinked s.cfg v' (v.nodes.length - 2) joined else joined) s.nodeKinds) ∧
    (∀ (v : Queue) (pos a : Word) (x : QNode), Editable s q v → v.nodes[pos.toNat]? = some x →
      let n := pos.toNat
      let v' := { v with
        nodes := v.nodes.set n ⟨a, updAll s.cfg v.kind⟩, fc := if v.fc = some x.addr then some a else v.fc }
      let cut := writeWord s.mem (linkAt s.cfg v.kind x.addr) 0
      let joined := relinked s.cfg v' n (if n = 0 then cut else relinked s.cfg v' (n - 1) cut)
      nodesLegal s v.kind (queueAddrs v') = true →
      exec (.queueReplace q pos a) s = edited s q v'
        (if v.fc = v'.fc then joined else relinked s.cfg v' (v.nodes.length - 1) joined) (putKey s.nodeKinds a v.kind)) ∧
    (∀ (v : Queue) (pos : Word) (x : QNode), Editable s q v → v.nodes[pos.toNat]? = some x →
      let v' := { v with fc := some x.addr }
      exec (.queueSetCircular q pos) s = edited s q v' (relinked s.cfg v' (v.nodes.length - 1) s.mem) s.nodeKinds) ∧
    (∀ v : Queue, Editable s q v →
      let v' := { v with fc := none }
      exec (.queueClearCircular q) s = edited s q v' (relinked s.cfg v' (v.nodes.length - 1) s.mem) s.nodeKinds)

/-- Every link word of a static queue is the one it must have (42_queue.md R192). -/
def Sys2Proof.Claims.LinksOk (s : State) (v : Queue) : Prop :=
  ∀ (k : Nat) (a : Word), (queueAddrs v)[k]? = some a → readWord s.mem (linkAt s.cfg v.kind a) = required s.cfg v k

/-- The structural operations keep the static link invariant (42_queue.md R192). -/
def Obligations.StaticLinksKept : Prop :=
  ∀ (s t : State) (q pos a : Word) (kind : Kind) (v v' : Queue) (i : Instr), Ready s → s.cfg.wf = true →
    Memory.wf s.mem = true →
    s.queue q = some v → LinksOk s v →
    i ∈ [Instr.queueInit q kind, .queueInsert q pos a, .queueRemove q pos, .queueReplace q pos a,
      .queueSetCircular q pos, .queueClearCircular q] →
    exec i s = .next t → t.queue q = some v' → LinksOk t v'

/-- Node addresses or kinds that no queue operation accepts (42_queue.md R191, R194): an address that is no multiple of 4,
that lies in another window than the head, whose static footprint crosses the top of the window, or whose footprint
overlaps another's; a node whose recorded kind tag differs from the queue's kind. -/
def Sys2Proof.Claims.BadNodes (s : State) (kind : Kind) (as : List Word) : Prop :=
  let bytes := 4 * nodeWords s.cfg kind
  (∃ a ∈ as, a.toNat % 4 ≠ 0) ∨
  (∃ a ∈ as, a.extractLsb' 16 16 ≠ (as.headD 0).extractLsb' 16 16) ∨
  (∃ a ∈ as, 65536 < a.toNat % 65536 + bytes) ∨
  (∃ (i j : Nat) (a b : Word), i < j ∧ as[i]? = some a ∧ as[j]? = some b ∧ a.toNat < b.toNat + bytes ∧
    b.toNat < a.toNat + bytes) ∨
  ∃ a ∈ as, ∃ x, findKey s.nodeKinds a = some x ∧ x ≠ kind

/-- A conversion from the wrong format or of an empty queue, the second pass alone on a static or empty queue (log 25), a
structural operation on a dynamic queue, an operation on no queue (a name without a record: the model's choice, log 24)
or at no position, and any operation on or towards illegal addresses or nodes of another kind (tags: log 24), is a
precondition violation (42_queue.md R191, R194, R195, R208 and section 4). -/
def Obligations.QueueViolations : Prop :=
  ∀ (s : State) (q pos a : Word),
    let edits := [Instr.queueInsert q pos a, .queueRemove q pos, .queueReplace q pos a, .queueSetCircular q pos,
      .queueClearCircular q]
    let converts := [Instr.convertToDynamic q, .convertToStatic q, .updateDynamicQueueLinks q]
    (s.queue q = none → ∀ i ∈ converts ++ edits, exec i s = violated s) ∧
    ∀ v : Queue, s.queue q = some v →
      (v.format = .dynamic ∨ v.nodes = [] → exec (.convertToDynamic q) s = violated s) ∧
      (v.format = .static ∨ v.nodes = [] →
        exec (.convertToStatic q) s = violated s ∧ exec (.updateDynamicQueueLinks q) s = violated s) ∧
      (v.format = .dynamic → ∀ i ∈ edits, exec i s = violated s) ∧
      (v.nodes.length ≤ pos.toNat → ∀ i ∈ [Instr.queueRemove q pos, .queueReplace q pos a, .queueSetCircular q pos],
        exec i s = violated s) ∧
      (v.nodes.length < pos.toNat → exec (.queueInsert q pos a) s = violated s) ∧
      (BadNodes s v.kind (queueAddrs v) → ∀ i ∈ converts ++ edits, exec i s = violated s) ∧
      (BadNodes s v.kind ((queueAddrs v).take pos.toNat ++ [a] ++ (queueAddrs v).drop pos.toNat) →
        exec (.queueInsert q pos a) s = violated s) ∧
      (BadNodes s v.kind ((queueAddrs v).eraseIdx pos.toNat) → exec (.queueRemove q pos) s = violated s) ∧
      (BadNodes s v.kind ((queueAddrs v).set pos.toNat a) → exec (.queueReplace q pos a) s = violated s)

/-! ## Conversions -/

/-- Words stored from an address up. -/
def Sys2Proof.Claims.storeWords (m : Memory) (a : Word) (ws : List Word) : Memory :=
  (List.range ws.length).foldl (fun m k => writeWord m (a + BitVec.ofNat 32 (4 * k)) (imgWord ws k)) m

/-- The eight words of the full node at an address, in bank-index order. -/
def Sys2Proof.Claims.fullImage (k : Cfg) (m : Memory) (kind : Kind) (a : Word) : List Word :=
  imageOf k kind ((List.range (nodeWords k kind)).map fun i => readWord m (a + BitVec.ofNat 32 (4 * i)))

/-- The nodes of a queue with their present masks: the head in full, each later node against the node before it
(42_queue.md R196, R197, R205). -/
def Sys2Proof.Claims.dynamicNodes (k : Cfg) (m : Memory) (v : Queue) : List QNode :=
  match queueAddrs v with
  | [] => []
  | a :: as => ⟨a, updAll k v.kind⟩ ::
      (List.zipWith (fun p b => ⟨b, presentMask k v.kind (fullImage k m v.kind p) (fullImage k m v.kind b)⟩)
        (a :: as) as)

/-- The memory with every node but the head in compact form (42_queue.md R200); the images are those of `m`. -/
def Sys2Proof.Claims.compacted (k : Cfg) (m : Memory) (v : Queue) : Memory :=
  (dynamicNodes k m v).tail.foldl
    (fun m' n => storeWords m' n.addr (compactWords k v.kind n.present (fullImage k m v.kind n.addr))) m

/-- The second pass (42_queue.md R201): every node's last stored word links to the next node with that node's mask; the
tail's closes the cycle (R202) or ends the list. -/
def Sys2Proof.Claims.relinkDynamic (k : Cfg) (v : Queue) (m : Memory) : Memory :=
  (List.range v.nodes.length).foldl (fun m' i =>
    match v.nodes[i]? with
    | none => m'
    | some n =>
      writeWord m' (n.addr + BitVec.ofNat 32 (4 * (maskCount k v.kind n.present - 1)))
        (match v.nodes[i + 1]? with
         | some x => updWord k.layout x.present ||| (x.addr &&& 0x0000FFFC)
         | none =>
           match v.fc with
           | some f => updWord k.layout (closingMask k v f) ||| (f &&& 0x0000FFFC)
           | none => 0)) m

/-- A host agent may issue a queue command that finishes in this turn. -/
abbrev Sys2Proof.Claims.QueueReady (s : State) (v : Queue) : Prop :=
  s.pending = [] ∧ 64 * (v.nodes.length + 1) ≤ s.quantum

/-- `convert_to_dynamic` and its second pass, on its own too (42_queue.md R197, R200, R201; the second pass alone:
log 25). -/
def Obligations.ConvertToDynamicResult : Prop :=
  ∀ (s : State) (q : Word) (v : Queue), QueueReady s v → s.queue q = some v → v.nodes ≠ [] →
    nodesLegal s v.kind (queueAddrs v) = true →
    (v.format = .static →
      let v' : Queue := { v with format := .dynamic, nodes := dynamicNodes s.cfg s.mem v }
      exec (.convertToDynamic q) s =
        edited s q v' (relinkDynamic s.cfg v' (compacted s.cfg s.mem v)) s.nodeKinds) ∧
    (v.format = .dynamic → exec (.updateDynamicQueueLinks q) s =
      .next ({ s with mem := relinkDynamic s.cfg v s.mem }.answer (plainReply .ok)))

/-- The inverse walk over the nodes after the head: each is read by the mask of the link word before it, what the mask
lacks comes from the node before it (42_queue.md R203). -/
def Sys2Proof.Claims.expanded (k : Cfg) (m : Memory) (kind : Kind) : List Word → List Word → List (List Word)
  | _, [] => []
  | ctx, a :: as =>
    let mask := linkUpd k.layout (imgWord ctx 7)
    let img := expandImage k kind mask
      ((List.range (storedRegs k kind mask).length).map fun i => readWord m (a + BitVec.ofNat 32 (4 * i))) ctx
    img :: expanded k m kind img as

/-- `convert_to_static`, where every mask of the walk has `U_CLLR` (42_queue.md R203; else 93_implementation_defined.md
U8). -/
def Obligations.ConvertToStaticResult : Prop :=
  ∀ (s : State) (q : Word) (v : Queue) (a : Word) (as : List Word), QueueReady s v → s.queue q = some v →
    queueAddrs v = a :: as → nodesLegal s v.kind (a :: as) = true → v.format = .dynamic →
    let head := fullImage s.cfg s.mem v.kind a
    let imgs := head :: expanded s.cfg s.mem v.kind head as
    (∀ img ∈ imgs.dropLast, (linkUpd s.cfg.layout (imgWord img 7)).getLsbD 7 = true) →
    let v' : Queue := { v with format := .static, nodes := (a :: as).map fun x => ⟨x, updAll s.cfg v.kind⟩ }
    let stored := ((a :: as).zip imgs).foldl (fun m p => storeWords m p.1 (imageRegs s.cfg v.kind p.2)) s.mem
    exec (.convertToStatic q) s =
      edited s q v' ((List.range v.nodes.length).foldl (fun m i => relinked s.cfg v' i m) stored) s.nodeKinds

/-- What compaction keeps: exactly the words that differ from the node before, the source address and the link word; and
expanding the stored words with the same context gives the node back, but for its link word (42_queue.md R197 to R199,
R203, R205). -/
def Obligations.CompactionExpands : Prop :=
  ∀ (k : Cfg) (kind : Kind) (ctx img : List Word) (link : Word), k.wf = true → img.length = 8 →
    (∀ i < 8, (updAll k kind).getLsbD i = false → imgWord img i = 0) →
    let m := presentMask k kind ctx img
    (∀ i < 8, m.getLsbD i =
      ((updAll k kind).getLsbD i && (i == 3 || i == 7 || imgWord img i != imgWord ctx i))) ∧
    expandImage k kind m (storedWords k kind m img link) ctx = img.set 7 link

/-- The static and dynamic round trip: after both conversions every word of every node but the link word is what it was,
and the link words are those of a static queue; every node count, every loop target, both closing masks
(42_queue.md R204, whose stronger law the spec marks as derived from R197, R201 and R203). -/
def Obligations.ConversionRoundTrip : Prop :=
  ∀ (s : State) (q : Word) (v : Queue), QueueReady s v → s.cfg.wf = true → Memory.wf s.mem = true →
    s.queue q = some v → v.nodes ≠ [] → v.format = .static → nodesLegal s v.kind (queueAddrs v) = true →
    ∃ t u v', exec (.convertToDynamic q) s = .next t ∧ exec (.convertToStatic q) t = .next u ∧
      u.queue q = some v' ∧ v'.format = .static ∧ v'.kind = v.kind ∧ v'.fc = v.fc ∧ queueAddrs v' = queueAddrs v ∧
      LinksOk u v' ∧
      ∀ a ∈ queueAddrs v, ∀ k < nodeWords s.cfg v.kind - 1,
        readWord u.mem (a + BitVec.ofNat 32 (4 * k)) = readWord s.mem (a + BitVec.ofNat 32 (4 * k))
end

