-- ==== Sys2Proof/Laws/Memory.lean ====
section
/-! SUPPORT. Laws of memory: a byte reads back as it was written, every other byte reads as before, and every write
keeps the canonical form. -/

namespace Sys2Proof.Machine

/-- Every address of the list is above a bound. -/
def Memory.above (k : Nat) (m : Memory) : Prop := ∀ c ∈ m, k < c.1

theorem Memory.wf_cons (k : Nat) (v : Byte) (m : Memory) :
    Memory.wf ((k, v) :: m) = true ↔ k < 2 ^ 32 ∧ v ≠ unlistedByte ∧ Memory.above k m ∧ Memory.wf m = true := by
  simp [Memory.wf, Memory.above, and_assoc]

/-- An address below every listed one reads as unlisted. -/
theorem memRead_of_above (m : Memory) (a : Nat) (h : ∀ c ∈ m, a ≠ c.1) : memRead m a = unlistedByte := by
  induction m with
  | nil => rfl
  | cons c m ih =>
    obtain ⟨k, v⟩ := c
    have hk : k ≠ a := fun e => h (k, v) (by simp) e.symm
    simp only [memRead, if_neg hk]
    exact ih fun c hc => h c (by simp [hc])

/-- A written byte reads back (20_memory.md R70). -/
theorem memRead_memWrite_same (m : Memory) (a : Nat) (b : Byte) (h : Memory.wf m = true) :
    memRead (memWrite m a b) a = b := by
  induction m with
  | nil => by_cases hb : b = unlistedByte <;> simp [memWrite, memRead, hb]
  | cons c m ih =>
    obtain ⟨k, v⟩ := c
    obtain ⟨-, -, hk, hm⟩ := (Memory.wf_cons k v m).mp h
    by_cases h1 : a < k
    · by_cases hb : b = unlistedByte
      · simp only [memWrite, if_pos h1, if_pos hb]
        rw [hb]
        apply memRead_of_above
        intro c hc
        rcases List.mem_cons.mp hc with rfl | hc
        · exact Nat.ne_of_lt h1
        · exact Nat.ne_of_lt (lt_trans h1 (hk c hc))
      · simp [memWrite, if_pos h1, if_neg hb, memRead]
    · by_cases h2 : a = k
      · by_cases hb : b = unlistedByte
        · simp only [memWrite, if_neg h1, if_pos h2, if_pos hb]
          rw [hb]
          apply memRead_of_above
          intro c hc
          rw [h2]
          exact Nat.ne_of_lt (hk c hc)
        · simp [memWrite, h2, if_neg hb, memRead]
      · simp [memWrite, if_neg h1, if_neg h2, memRead, if_neg (Ne.symm h2), ih hm]

/-- Another byte reads as before. -/
theorem memRead_memWrite_ne (m : Memory) (a x : Nat) (b : Byte) (hne : x ≠ a) :
    memRead (memWrite m a b) x = memRead m x := by
  induction m with
  | nil => by_cases hb : b = unlistedByte <;> simp [memWrite, memRead, hb, Ne.symm hne]
  | cons c m ih =>
    obtain ⟨k, v⟩ := c
    by_cases h1 : a < k
    · by_cases hb : b = unlistedByte <;> simp [memWrite, h1, hb, memRead, Ne.symm hne]
    · by_cases h2 : a = k
      · subst h2
        by_cases hb : b = unlistedByte <;> simp [memWrite, hb, memRead, Ne.symm hne]
      · rw [memWrite, if_neg h1, if_neg h2, memRead, memRead, ih]

theorem Memory.above_memWrite (m : Memory) (k a : Nat) (b : Byte) (h : Memory.above k m) (ha : k < a) :
    Memory.above k (memWrite m a b) := by
  induction m with
  | nil =>
    by_cases hb : b = unlistedByte <;> simp [memWrite, hb, Memory.above, ha]
  | cons c m ih =>
    obtain ⟨k', v⟩ := c
    have hm : Memory.above k m := fun c hc => h c (by simp [hc])
    have hk : k < k' := h (k', v) (by simp)
    intro c hc
    by_cases h1 : a < k'
    · by_cases hb : b = unlistedByte
      · simp only [memWrite, if_pos h1, if_pos hb] at hc; exact h c hc
      · simp only [memWrite, if_pos h1, if_neg hb] at hc
        rcases List.mem_cons.mp hc with rfl | hc
        · exact ha
        · exact h c hc
    · by_cases h2 : a = k'
      · by_cases hb : b = unlistedByte
        · simp only [memWrite, if_neg h1, if_pos h2, if_pos hb] at hc; exact hm c hc
        · simp only [memWrite, if_neg h1, if_pos h2, if_neg hb] at hc
          rcases List.mem_cons.mp hc with rfl | hc
          · exact ha
          · exact hm c hc
      · simp only [memWrite, if_neg h1, if_neg h2] at hc
        rcases List.mem_cons.mp hc with rfl | hc
        · exact hk
        · exact ih hm c hc

/-- A write keeps the canonical form. -/
theorem memWrite_wf (m : Memory) (a : Nat) (b : Byte) (ha : a < 2 ^ 32) (h : Memory.wf m = true) :
    Memory.wf (memWrite m a b) = true := by
  induction m with
  | nil =>
    by_cases hb : b = unlistedByte
    · simp [memWrite, hb, Memory.wf]
    · simp only [memWrite, if_neg hb]
      exact (Memory.wf_cons a b []).mpr ⟨ha, hb, fun c hc => by simp at hc, rfl⟩
  | cons c m ih =>
    obtain ⟨k, v⟩ := c
    obtain ⟨hk, hv, hab, hm⟩ := (Memory.wf_cons k v m).mp h
    by_cases h1 : a < k
    · by_cases hb : b = unlistedByte
      · simpa only [memWrite, if_pos h1, if_pos hb] using h
      · simp only [memWrite, if_pos h1, if_neg hb]
        refine (Memory.wf_cons a b _).mpr ⟨ha, hb, ?_, h⟩
        intro c hc
        rcases List.mem_cons.mp hc with rfl | hc
        · exact h1
        · exact lt_trans h1 (hab c hc)
    · by_cases h2 : a = k
      · by_cases hb : b = unlistedByte
        · simpa only [memWrite, if_neg h1, if_pos h2, if_pos hb] using hm
        · simp only [memWrite, if_neg h1, if_pos h2, if_neg hb]
          subst h2
          exact (Memory.wf_cons a b m).mpr ⟨ha, hb, hab, hm⟩
      · simp only [memWrite, if_neg h1, if_neg h2]
        exact (Memory.wf_cons k v _).mpr ⟨hk, hv, Memory.above_memWrite m k a b hab (by omega), ih hm⟩

/-- Storing bytes keeps the canonical form. -/
theorem writeBytes_wf (m : Memory) (a : Word) (bs : List Byte) (h : Memory.wf m = true) :
    Memory.wf (writeBytes m a bs) = true := by
  induction bs generalizing m a with
  | nil => exact h
  | cons b bs ih => exact ih _ _ (memWrite_wf m _ b a.isLt h)

theorem writeWord_wf (m : Memory) (a w : Word) (h : Memory.wf m = true) : Memory.wf (writeWord m a w) = true :=
  writeBytes_wf m a _ h

theorem writeWords_wf (m : Memory) (a : Word) (ws : List Word) (h : Memory.wf m = true) :
    Memory.wf (writeWords m a ws) = true := by
  induction ws generalizing m a with
  | nil => exact h
  | cons w ws ih => exact ih _ _ (writeWord_wf m a w h)

/-- A byte outside the stored bytes reads as before: `x` is none of `a, a + 1, …` (20_memory.md R70). -/
theorem memRead_writeBytes_ne (m : Memory) (a : Word) (bs : List Byte) (x : Word)
    (h : ∀ k < bs.length, x ≠ a + BitVec.ofNat 32 k) :
    memRead (writeBytes m a bs) x.toNat = memRead m x.toNat := by
  induction bs generalizing m a with
  | nil => rfl
  | cons b bs ih =>
    rw [writeBytes, ih]
    · apply memRead_memWrite_ne
      intro e
      exact h 0 (by simp) (by simpa using BitVec.eq_of_toNat_eq e)
    · intro k hk e
      apply h (k + 1) (by simpa using hk)
      rw [e]
      apply BitVec.eq_of_toNat_eq
      simp only [BitVec.toNat_add, BitVec.toNat_ofNat, show BitVec.toNat (1 : Word) = 1 from rfl]
      omega

/-- A byte outside a stored word reads as before. -/
theorem memRead_writeWord_ne (m : Memory) (a w x : Word) (h0 : x ≠ a) (h1 : x ≠ a + 1) (h2 : x ≠ a + 2)
    (h3 : x ≠ a + 3) : memRead (writeWord m a w) x.toNat = memRead m x.toNat := by
  apply memRead_writeBytes_ne
  intro k hk
  have : k < 4 := by simpa [wordBytes] using hk
  interval_cases k
  · simpa using h0
  · exact h1
  · exact h2
  · exact h3

/-- Stored bytes read back, byte by byte, as long as they do not run round the address space (20_memory.md R70). -/
theorem memRead_writeBytes_same (m : Memory) (a : Word) (bs : List Byte) (h : Memory.wf m = true)
    (hlen : bs.length ≤ 2 ^ 32) (k : Nat) (hk : k < bs.length) :
    memRead (writeBytes m a bs) (a + BitVec.ofNat 32 k).toNat = bs[k] := by
  induction bs generalizing m a k with
  | nil => simp at hk
  | cons b bs ih =>
    have hlen' : bs.length < 2 ^ 32 := by simpa using hlen
    rw [writeBytes]
    cases k with
    | zero =>
      rw [memRead_writeBytes_ne]
      · simpa using memRead_memWrite_same m a.toNat b h
      · intro j hj e
        have := congrArg BitVec.toNat e
        simp only [BitVec.toNat_add, BitVec.toNat_ofNat, show BitVec.toNat (1 : Word) = 1 from rfl] at this
        omega
    | succ k =>
      have e : a + BitVec.ofNat 32 (k + 1) = a + 1 + BitVec.ofNat 32 k := by
        apply BitVec.eq_of_toNat_eq
        simp only [BitVec.toNat_add, BitVec.toNat_ofNat, show BitVec.toNat (1 : Word) = 1 from rfl]
        omega
      rw [e]
      exact ih _ _ (memWrite_wf m _ b a.isLt h) (Nat.le_of_lt hlen') k (by simpa using hk)

/-- A stored word reads back (20_memory.md R71). -/
theorem readWord_writeWord_same (m : Memory) (a w : Word) (h : Memory.wf m = true) :
    readWord (writeWord m a w) a = w := by
  have r (k : Nat) (hk : k < 4) := memRead_writeBytes_same m a (wordBytes w) h (by simp [wordBytes]) k hk
  have r0 := r 0 (by decide)
  have r1 := r 1 (by decide)
  have r2 := r 2 (by decide)
  have r3 := r 3 (by decide)
  simp only [BitVec.add_zero, wordBytes, List.getElem_cons_zero, List.getElem_cons_succ] at r0 r1 r2 r3
  simp only [readWord, writeWord]
  have q1 : memRead (writeBytes m a (wordBytes w)) (a + 1).toNat = w.extractLsb' 8 8 := r1
  have q2 : memRead (writeBytes m a (wordBytes w)) (a + 2).toNat = w.extractLsb' 16 8 := r2
  have q3 : memRead (writeBytes m a (wordBytes w)) (a + 3).toNat = w.extractLsb' 24 8 := r3
  have q0 : memRead (writeBytes m a (wordBytes w)) a.toNat = w.extractLsb' 0 8 := r0
  rw [q0, q1, q2, q3]
  apply BitVec.eq_of_getLsbD_eq
  intro i hi
  simp only [BitVec.getLsbD_append, BitVec.getLsbD_extractLsb']
  by_cases h1 : i < 8
  · simp [h1]
  · by_cases h2 : i < 16
    · simp [h1, show i - 8 < 8 by omega, show 8 + (i - 8) = i by omega]
    · by_cases h3 : i < 24
      · simp [h1, show ¬ i - 8 < 8 by omega, show i - 8 - 8 < 8 by omega, show 16 + (i - 8 - 8) = i by omega]
      · simp [h1, show ¬ i - 8 < 8 by omega, show ¬ i - 8 - 8 < 8 by omega, show i - 8 - 8 - 8 < 8 by omega,
          show 24 + (i - 8 - 8 - 8) = i by omega]

end Sys2Proof.Machine
end

