-- ==== Sys2Proof/Laws/State.lean ====
section
/-! SUPPORT. The small lemmas of the state and of its updates: one per field per update, so that no later proof unfolds
a record update. -/

namespace Sys2Proof.Machine

/-! ## Updates of the state -/

@[simp] theorem State.setChan_cfg (s : State) (i : Nat) (c : Channel) : (s.setChan i c).cfg = s.cfg := rfl
@[simp] theorem State.setChan_mem (s : State) (i : Nat) (c : Channel) : (s.setChan i c).mem = s.mem := rfl
@[simp] theorem State.setChan_tick (s : State) (i : Nat) (c : Channel) : (s.setChan i c).tick = s.tick := rfl
@[simp] theorem State.setChan_queues (s : State) (i : Nat) (c : Channel) : (s.setChan i c).queues = s.queues := rfl
@[simp] theorem State.setChan_nodeKinds (s : State) (i : Nat) (c : Channel) :
    (s.setChan i c).nodeKinds = s.nodeKinds := rfl
@[simp] theorem State.setChan_app (s : State) (i : Nat) (c : Channel) : (s.setChan i c).app = s.app := rfl
@[simp] theorem State.setChan_isr (s : State) (i : Nat) (c : Channel) : (s.setChan i c).isr = s.isr := rfl
@[simp] theorem State.setChan_irqReply (s : State) (i : Nat) (c : Channel) :
    (s.setChan i c).irqReply = s.irqReply := rfl
@[simp] theorem State.setChan_trace (s : State) (i : Nat) (c : Channel) : (s.setChan i c).trace = s.trace := rfl
@[simp] theorem State.setChan_agenda (s : State) (i : Nat) (c : Channel) : (s.setChan i c).agenda = s.agenda := rfl
@[simp] theorem State.setChan_quantum (s : State) (i : Nat) (c : Channel) : (s.setChan i c).quantum = s.quantum := rfl
@[simp] theorem State.setChan_fresh (s : State) (i : Nat) (c : Channel) : (s.setChan i c).fresh = s.fresh := rfl

@[simp] theorem State.onChan_cfg (s : State) (i : Nat) (f : Channel → Channel) : (s.onChan i f).cfg = s.cfg := rfl
@[simp] theorem State.onChan_mem (s : State) (i : Nat) (f : Channel → Channel) : (s.onChan i f).mem = s.mem := rfl
@[simp] theorem State.onChan_tick (s : State) (i : Nat) (f : Channel → Channel) : (s.onChan i f).tick = s.tick := rfl
@[simp] theorem State.onChan_queues (s : State) (i : Nat) (f : Channel → Channel) :
    (s.onChan i f).queues = s.queues := rfl
@[simp] theorem State.onChan_nodeKinds (s : State) (i : Nat) (f : Channel → Channel) :
    (s.onChan i f).nodeKinds = s.nodeKinds := rfl
@[simp] theorem State.onChan_app (s : State) (i : Nat) (f : Channel → Channel) : (s.onChan i f).app = s.app := rfl
@[simp] theorem State.onChan_isr (s : State) (i : Nat) (f : Channel → Channel) : (s.onChan i f).isr = s.isr := rfl
@[simp] theorem State.onChan_irqReply (s : State) (i : Nat) (f : Channel → Channel) :
    (s.onChan i f).irqReply = s.irqReply := rfl
@[simp] theorem State.onChan_trace (s : State) (i : Nat) (f : Channel → Channel) : (s.onChan i f).trace = s.trace := rfl
@[simp] theorem State.onChan_agenda (s : State) (i : Nat) (f : Channel → Channel) :
    (s.onChan i f).agenda = s.agenda := rfl
@[simp] theorem State.onChan_quantum (s : State) (i : Nat) (f : Channel → Channel) :
    (s.onChan i f).quantum = s.quantum := rfl
@[simp] theorem State.onChan_fresh (s : State) (i : Nat) (f : Channel → Channel) : (s.onChan i f).fresh = s.fresh := rfl

@[simp] theorem State.putQueue_cfg (s : State) (q : Word) (v : Queue) : (s.putQueue q v).cfg = s.cfg := rfl
@[simp] theorem State.putQueue_mem (s : State) (q : Word) (v : Queue) : (s.putQueue q v).mem = s.mem := rfl
@[simp] theorem State.putQueue_tick (s : State) (q : Word) (v : Queue) : (s.putQueue q v).tick = s.tick := rfl
@[simp] theorem State.putQueue_nodeKinds (s : State) (q : Word) (v : Queue) :
    (s.putQueue q v).nodeKinds = s.nodeKinds := rfl
@[simp] theorem State.putQueue_app (s : State) (q : Word) (v : Queue) : (s.putQueue q v).app = s.app := rfl
@[simp] theorem State.putQueue_isr (s : State) (q : Word) (v : Queue) : (s.putQueue q v).isr = s.isr := rfl
@[simp] theorem State.putQueue_irqReply (s : State) (q : Word) (v : Queue) :
    (s.putQueue q v).irqReply = s.irqReply := rfl
@[simp] theorem State.putQueue_trace (s : State) (q : Word) (v : Queue) : (s.putQueue q v).trace = s.trace := rfl
@[simp] theorem State.putQueue_agenda (s : State) (q : Word) (v : Queue) : (s.putQueue q v).agenda = s.agenda := rfl
@[simp] theorem State.putQueue_quantum (s : State) (q : Word) (v : Queue) : (s.putQueue q v).quantum = s.quantum := rfl
@[simp] theorem State.putQueue_fresh (s : State) (q : Word) (v : Queue) : (s.putQueue q v).fresh = s.fresh := rfl
@[simp] theorem State.putQueue_chans (s : State) (q : Word) (v : Queue) : (s.putQueue q v).chans = s.chans := rfl

@[simp] theorem State.answer_cfg (s : State) (r : Reply) : (s.answer r).cfg = s.cfg := by
  unfold State.answer; split <;> rfl
@[simp] theorem State.answer_chans (s : State) (r : Reply) : (s.answer r).chans = s.chans := by
  unfold State.answer; split <;> rfl
@[simp] theorem State.answer_mem (s : State) (r : Reply) : (s.answer r).mem = s.mem := by
  unfold State.answer; split <;> rfl
@[simp] theorem State.answer_tick (s : State) (r : Reply) : (s.answer r).tick = s.tick := by
  unfold State.answer; split <;> rfl
@[simp] theorem State.answer_queues (s : State) (r : Reply) : (s.answer r).queues = s.queues := by
  unfold State.answer; split <;> rfl
@[simp] theorem State.answer_nodeKinds (s : State) (r : Reply) : (s.answer r).nodeKinds = s.nodeKinds := by
  unfold State.answer; split <;> rfl
@[simp] theorem State.answer_isr (s : State) (r : Reply) : (s.answer r).isr = s.isr := by
  unfold State.answer; split <;> rfl
@[simp] theorem State.answer_trace (s : State) (r : Reply) : (s.answer r).trace = s.trace := by
  unfold State.answer; split <;> rfl
@[simp] theorem State.answer_agenda (s : State) (r : Reply) : (s.answer r).agenda = s.agenda := by
  unfold State.answer; split <;> rfl
@[simp] theorem State.answer_quantum (s : State) (r : Reply) : (s.answer r).quantum = s.quantum := by
  unfold State.answer; split <;> rfl
@[simp] theorem State.answer_fresh (s : State) (r : Reply) : (s.answer r).fresh = s.fresh := by
  unfold State.answer; split <;> rfl
@[simp] theorem State.answer_todo (s : State) (r : Reply) : (s.answer r).app.todo = s.app.todo := by
  unfold State.answer; split <;> rfl
@[simp] theorem State.answer_chan (s : State) (r : Reply) (i : Nat) : (s.answer r).chan i = s.chan i := by
  simp [State.chan]
@[simp] theorem State.answer_pending (s : State) (r : Reply) : (s.answer r).pending = s.pending := by
  simp only [State.pending, State.answer_isr, State.answer_todo]
theorem State.answer_onChan (s : State) (r : Reply) (i : Nat) (f : Channel → Channel) :
    (s.answer r).onChan i f = (s.onChan i f).answer r := by
  unfold State.answer State.onChan State.setChan State.chan; split <;> simp_all

/-! ## Channels of a state -/

@[simp] theorem State.setChan_length (s : State) (i : Nat) (c : Channel) :
    (s.setChan i c).chans.length = s.chans.length := by simp [State.setChan]
@[simp] theorem State.onChan_length (s : State) (i : Nat) (f : Channel → Channel) :
    (s.onChan i f).chans.length = s.chans.length := by simp [State.onChan]
@[simp] theorem State.setChan_hasChan (s : State) (i j : Nat) (c : Channel) :
    (s.setChan i c).hasChan j = s.hasChan j := by simp [State.hasChan]
@[simp] theorem State.onChan_hasChan (s : State) (i j : Nat) (f : Channel → Channel) :
    (s.onChan i f).hasChan j = s.hasChan j := by simp [State.hasChan]

/-- Reading the channel that was written. -/
theorem State.chan_setChan_same (s : State) (i : Nat) (c : Channel) (h : i < s.chans.length) :
    (s.setChan i c).chan i = c := by simp [State.setChan, State.chan, h]

/-- Reading another channel. -/
theorem State.chan_setChan_ne (s : State) (i j : Nat) (c : Channel) (h : i ≠ j) :
    (s.setChan i c).chan j = s.chan j := by simp [State.setChan, State.chan, h]

theorem State.chan_onChan_same (s : State) (i : Nat) (f : Channel → Channel) (h : i < s.chans.length) :
    (s.onChan i f).chan i = f (s.chan i) := State.chan_setChan_same s i _ h

theorem State.chan_onChan_ne (s : State) (i j : Nat) (f : Channel → Channel) (h : i ≠ j) :
    (s.onChan i f).chan j = s.chan j := State.chan_setChan_ne s i j _ h

/-- Two updates of one channel are one. -/
theorem State.onChan_onChan (s : State) (i : Nat) (f g : Channel → Channel) (h : i < s.chans.length) :
    (s.onChan i f).onChan i g = s.onChan i fun c => g (f c) := by
  unfold State.onChan
  rw [State.chan_setChan_same _ _ _ h]
  simp [State.setChan]

/-- A channel that is in range is in the list of channels. -/
theorem State.chan_mem (s : State) (i : Nat) (h : i < s.chans.length) : s.chan i ∈ s.chans := by
  unfold State.chan
  rw [List.getD_eq_getElem _ _ h]
  exact List.getElem_mem h

/-- The channels after an update are old ones or the updated one. -/
theorem State.mem_setChan (s : State) (i : Nat) (c d : Channel) (h : d ∈ (s.setChan i c).chans) :
    d = c ∨ d ∈ s.chans := (List.mem_or_eq_of_mem_set h).symm

/-- Writing a channel back as it is changes nothing. -/
theorem State.setChan_self (s : State) (i : Nat) : s.setChan i (s.chan i) = s := by
  by_cases h : i < s.chans.length
  · simp [State.setChan, State.chan, h]
  · simp [State.setChan, List.set_eq_of_length_le (Nat.le_of_not_lt h)]

@[simp] theorem State.onChan_pending (s : State) (i : Nat) (f : Channel → Channel) :
    (s.onChan i f).pending = s.pending := rfl

/-! ## Updates of a channel -/

@[simp] theorem chFlagClear_twoD (fs : FlagSet) (c : Channel) : (chFlagClear fs c).twoD = c.twoD := rfl
@[simp] theorem chFlagClear_ctr1 (fs : FlagSet) (c : Channel) : (chFlagClear fs c).ctr1 = c.ctr1 := rfl
@[simp] theorem chFlagClear_ctr2 (fs : FlagSet) (c : Channel) : (chFlagClear fs c).ctr2 = c.ctr2 := rfl
@[simp] theorem chFlagClear_cbr1 (fs : FlagSet) (c : Channel) : (chFlagClear fs c).cbr1 = c.cbr1 := rfl
@[simp] theorem chFlagClear_csar (fs : FlagSet) (c : Channel) : (chFlagClear fs c).csar = c.csar := rfl
@[simp] theorem chFlagClear_cdar (fs : FlagSet) (c : Channel) : (chFlagClear fs c).cdar = c.cdar := rfl
@[simp] theorem chFlagClear_ctr3 (fs : FlagSet) (c : Channel) : (chFlagClear fs c).ctr3 = c.ctr3 := rfl
@[simp] theorem chFlagClear_cbr2 (fs : FlagSet) (c : Channel) : (chFlagClear fs c).cbr2 = c.cbr2 := rfl
@[simp] theorem chFlagClear_cllr (fs : FlagSet) (c : Channel) : (chFlagClear fs c).cllr = c.cllr := rfl
@[simp] theorem chFlagClear_lba (fs : FlagSet) (c : Channel) : (chFlagClear fs c).lba = c.lba := rfl
@[simp] theorem chFlagClear_ccr (fs : FlagSet) (c : Channel) : (chFlagClear fs c).ccr = c.ccr := rfl
@[simp] theorem chFlagClear_secAttr (fs : FlagSet) (c : Channel) : (chFlagClear fs c).secAttr = c.secAttr := rfl
@[simp] theorem chFlagClear_hid (fs : FlagSet) (c : Channel) : (chFlagClear fs c).hid = c.hid := rfl
@[simp] theorem chFlagClear_pins (fs : FlagSet) (c : Channel) : (chFlagClear fs c).pins = c.pins := rfl
@[simp] theorem chFlagClear_h (fs : FlagSet) (c : Channel) : (chFlagClear fs c).h = c.h := rfl

@[simp] theorem chIeWrite_twoD (fs : FlagSet) (c : Channel) : (chIeWrite fs c).twoD = c.twoD := rfl
@[simp] theorem chIeWrite_ctr1 (fs : FlagSet) (c : Channel) : (chIeWrite fs c).ctr1 = c.ctr1 := rfl
@[simp] theorem chIeWrite_ctr2 (fs : FlagSet) (c : Channel) : (chIeWrite fs c).ctr2 = c.ctr2 := rfl
@[simp] theorem chIeWrite_cbr1 (fs : FlagSet) (c : Channel) : (chIeWrite fs c).cbr1 = c.cbr1 := rfl
@[simp] theorem chIeWrite_csar (fs : FlagSet) (c : Channel) : (chIeWrite fs c).csar = c.csar := rfl
@[simp] theorem chIeWrite_cdar (fs : FlagSet) (c : Channel) : (chIeWrite fs c).cdar = c.cdar := rfl
@[simp] theorem chIeWrite_ctr3 (fs : FlagSet) (c : Channel) : (chIeWrite fs c).ctr3 = c.ctr3 := rfl
@[simp] theorem chIeWrite_cbr2 (fs : FlagSet) (c : Channel) : (chIeWrite fs c).cbr2 = c.cbr2 := rfl
@[simp] theorem chIeWrite_cllr (fs : FlagSet) (c : Channel) : (chIeWrite fs c).cllr = c.cllr := rfl
@[simp] theorem chIeWrite_lba (fs : FlagSet) (c : Channel) : (chIeWrite fs c).lba = c.lba := rfl
@[simp] theorem chIeWrite_csr (fs : FlagSet) (c : Channel) : (chIeWrite fs c).csr = c.csr := rfl
@[simp] theorem chIeWrite_secAttr (fs : FlagSet) (c : Channel) : (chIeWrite fs c).secAttr = c.secAttr := rfl
@[simp] theorem chIeWrite_hid (fs : FlagSet) (c : Channel) : (chIeWrite fs c).hid = c.hid := rfl
@[simp] theorem chIeWrite_pins (fs : FlagSet) (c : Channel) : (chIeWrite fs c).pins = c.pins := rfl
@[simp] theorem chIeWrite_h (fs : FlagSet) (c : Channel) : (chIeWrite fs c).h = c.h := rfl

@[simp] theorem chIeSet_twoD (fs : FlagSet) (c : Channel) : (chIeSet fs c).twoD = c.twoD := rfl
@[simp] theorem chIeSet_ctr1 (fs : FlagSet) (c : Channel) : (chIeSet fs c).ctr1 = c.ctr1 := rfl
@[simp] theorem chIeSet_ctr2 (fs : FlagSet) (c : Channel) : (chIeSet fs c).ctr2 = c.ctr2 := rfl
@[simp] theorem chIeSet_cbr1 (fs : FlagSet) (c : Channel) : (chIeSet fs c).cbr1 = c.cbr1 := rfl
@[simp] theorem chIeSet_csar (fs : FlagSet) (c : Channel) : (chIeSet fs c).csar = c.csar := rfl
@[simp] theorem chIeSet_cdar (fs : FlagSet) (c : Channel) : (chIeSet fs c).cdar = c.cdar := rfl
@[simp] theorem chIeSet_ctr3 (fs : FlagSet) (c : Channel) : (chIeSet fs c).ctr3 = c.ctr3 := rfl
@[simp] theorem chIeSet_cbr2 (fs : FlagSet) (c : Channel) : (chIeSet fs c).cbr2 = c.cbr2 := rfl
@[simp] theorem chIeSet_cllr (fs : FlagSet) (c : Channel) : (chIeSet fs c).cllr = c.cllr := rfl
@[simp] theorem chIeSet_lba (fs : FlagSet) (c : Channel) : (chIeSet fs c).lba = c.lba := rfl
@[simp] theorem chIeSet_csr (fs : FlagSet) (c : Channel) : (chIeSet fs c).csr = c.csr := rfl
@[simp] theorem chIeSet_secAttr (fs : FlagSet) (c : Channel) : (chIeSet fs c).secAttr = c.secAttr := rfl
@[simp] theorem chIeSet_hid (fs : FlagSet) (c : Channel) : (chIeSet fs c).hid = c.hid := rfl
@[simp] theorem chIeSet_pins (fs : FlagSet) (c : Channel) : (chIeSet fs c).pins = c.pins := rfl
@[simp] theorem chIeSet_h (fs : FlagSet) (c : Channel) : (chIeSet fs c).h = c.h := rfl

@[simp] theorem chSetPrio_twoD (L : Layout) (p : Word) (c : Channel) : (chSetPrio L p c).twoD = c.twoD := rfl
@[simp] theorem chSetPrio_ctr1 (L : Layout) (p : Word) (c : Channel) : (chSetPrio L p c).ctr1 = c.ctr1 := rfl
@[simp] theorem chSetPrio_ctr2 (L : Layout) (p : Word) (c : Channel) : (chSetPrio L p c).ctr2 = c.ctr2 := rfl
@[simp] theorem chSetPrio_cbr1 (L : Layout) (p : Word) (c : Channel) : (chSetPrio L p c).cbr1 = c.cbr1 := rfl
@[simp] theorem chSetPrio_csar (L : Layout) (p : Word) (c : Channel) : (chSetPrio L p c).csar = c.csar := rfl
@[simp] theorem chSetPrio_cdar (L : Layout) (p : Word) (c : Channel) : (chSetPrio L p c).cdar = c.cdar := rfl
@[simp] theorem chSetPrio_ctr3 (L : Layout) (p : Word) (c : Channel) : (chSetPrio L p c).ctr3 = c.ctr3 := rfl
@[simp] theorem chSetPrio_cbr2 (L : Layout) (p : Word) (c : Channel) : (chSetPrio L p c).cbr2 = c.cbr2 := rfl
@[simp] theorem chSetPrio_cllr (L : Layout) (p : Word) (c : Channel) : (chSetPrio L p c).cllr = c.cllr := rfl
@[simp] theorem chSetPrio_lba (L : Layout) (p : Word) (c : Channel) : (chSetPrio L p c).lba = c.lba := rfl
@[simp] theorem chSetPrio_csr (L : Layout) (p : Word) (c : Channel) : (chSetPrio L p c).csr = c.csr := rfl
@[simp] theorem chSetPrio_secAttr (L : Layout) (p : Word) (c : Channel) : (chSetPrio L p c).secAttr = c.secAttr := rfl
@[simp] theorem chSetPrio_hid (L : Layout) (p : Word) (c : Channel) : (chSetPrio L p c).hid = c.hid := rfl
@[simp] theorem chSetPrio_pins (L : Layout) (p : Word) (c : Channel) : (chSetPrio L p c).pins = c.pins := rfl
@[simp] theorem chSetPrio_h (L : Layout) (p : Word) (c : Channel) : (chSetPrio L p c).h = c.h := rfl

@[simp] theorem chSuspReq_twoD (c : Channel) : (chSuspReq c).twoD = c.twoD := by unfold chSuspReq; split <;> rfl
@[simp] theorem chSuspReq_ctr1 (c : Channel) : (chSuspReq c).ctr1 = c.ctr1 := by unfold chSuspReq; split <;> rfl
@[simp] theorem chSuspReq_ctr2 (c : Channel) : (chSuspReq c).ctr2 = c.ctr2 := by unfold chSuspReq; split <;> rfl
@[simp] theorem chSuspReq_cbr1 (c : Channel) : (chSuspReq c).cbr1 = c.cbr1 := by unfold chSuspReq; split <;> rfl
@[simp] theorem chSuspReq_csar (c : Channel) : (chSuspReq c).csar = c.csar := by unfold chSuspReq; split <;> rfl
@[simp] theorem chSuspReq_cdar (c : Channel) : (chSuspReq c).cdar = c.cdar := by unfold chSuspReq; split <;> rfl
@[simp] theorem chSuspReq_ctr3 (c : Channel) : (chSuspReq c).ctr3 = c.ctr3 := by unfold chSuspReq; split <;> rfl
@[simp] theorem chSuspReq_cbr2 (c : Channel) : (chSuspReq c).cbr2 = c.cbr2 := by unfold chSuspReq; split <;> rfl
@[simp] theorem chSuspReq_cllr (c : Channel) : (chSuspReq c).cllr = c.cllr := by unfold chSuspReq; split <;> rfl
@[simp] theorem chSuspReq_lba (c : Channel) : (chSuspReq c).lba = c.lba := by unfold chSuspReq; split <;> rfl
@[simp] theorem chSuspReq_csr (c : Channel) : (chSuspReq c).csr = c.csr := by unfold chSuspReq; split <;> rfl
@[simp] theorem chSuspReq_secAttr (c : Channel) :
    (chSuspReq c).secAttr = c.secAttr := by unfold chSuspReq; split <;> rfl
@[simp] theorem chSuspReq_hid (c : Channel) : (chSuspReq c).hid = c.hid := by unfold chSuspReq; split <;> rfl
@[simp] theorem chSuspReq_pins (c : Channel) : (chSuspReq c).pins = c.pins := by unfold chSuspReq; split <;> rfl
@[simp] theorem chSuspReq_h (c : Channel) : (chSuspReq c).h = c.h := by unfold chSuspReq; split <;> rfl

@[simp] theorem chResume_twoD (c : Channel) : (chResume c).twoD = c.twoD := by unfold chResume; split <;> rfl
@[simp] theorem chResume_ctr1 (c : Channel) : (chResume c).ctr1 = c.ctr1 := by unfold chResume; split <;> rfl
@[simp] theorem chResume_ctr2 (c : Channel) : (chResume c).ctr2 = c.ctr2 := by unfold chResume; split <;> rfl
@[simp] theorem chResume_cbr1 (c : Channel) : (chResume c).cbr1 = c.cbr1 := by unfold chResume; split <;> rfl
@[simp] theorem chResume_csar (c : Channel) : (chResume c).csar = c.csar := by unfold chResume; split <;> rfl
@[simp] theorem chResume_cdar (c : Channel) : (chResume c).cdar = c.cdar := by unfold chResume; split <;> rfl
@[simp] theorem chResume_ctr3 (c : Channel) : (chResume c).ctr3 = c.ctr3 := by unfold chResume; split <;> rfl
@[simp] theorem chResume_cbr2 (c : Channel) : (chResume c).cbr2 = c.cbr2 := by unfold chResume; split <;> rfl
@[simp] theorem chResume_cllr (c : Channel) : (chResume c).cllr = c.cllr := by unfold chResume; split <;> rfl
@[simp] theorem chResume_lba (c : Channel) : (chResume c).lba = c.lba := by unfold chResume; split <;> rfl
@[simp] theorem chResume_secAttr (c : Channel) : (chResume c).secAttr = c.secAttr := by unfold chResume; split <;> rfl
@[simp] theorem chResume_pins (c : Channel) : (chResume c).pins = c.pins := by unfold chResume; split <;> rfl
@[simp] theorem chResume_h (c : Channel) : (chResume c).h = c.h := by unfold chResume; split <;> rfl

@[simp] theorem chReset_twoD (c : Channel) : (chReset c).twoD = c.twoD := rfl
@[simp] theorem chReset_ctr1 (c : Channel) : (chReset c).ctr1 = c.ctr1 := rfl
@[simp] theorem chReset_ctr2 (c : Channel) : (chReset c).ctr2 = c.ctr2 := rfl
@[simp] theorem chReset_cbr1 (c : Channel) : (chReset c).cbr1 = c.cbr1 := rfl
@[simp] theorem chReset_csar (c : Channel) : (chReset c).csar = c.csar := rfl
@[simp] theorem chReset_cdar (c : Channel) : (chReset c).cdar = c.cdar := rfl
@[simp] theorem chReset_ctr3 (c : Channel) : (chReset c).ctr3 = c.ctr3 := rfl
@[simp] theorem chReset_cbr2 (c : Channel) : (chReset c).cbr2 = c.cbr2 := rfl
@[simp] theorem chReset_cllr (c : Channel) : (chReset c).cllr = c.cllr := rfl
@[simp] theorem chReset_lba (c : Channel) : (chReset c).lba = c.lba := rfl
@[simp] theorem chReset_secAttr (c : Channel) : (chReset c).secAttr = c.secAttr := rfl
@[simp] theorem chReset_pins (c : Channel) : (chReset c).pins = c.pins := rfl
@[simp] theorem chReset_h (c : Channel) : (chReset c).h = c.h := rfl

@[simp] theorem chRaise_twoD (f : FlagSet) (c : Channel) : (chRaise f c).twoD = c.twoD := rfl
@[simp] theorem chRaise_ctr1 (f : FlagSet) (c : Channel) : (chRaise f c).ctr1 = c.ctr1 := rfl
@[simp] theorem chRaise_ctr2 (f : FlagSet) (c : Channel) : (chRaise f c).ctr2 = c.ctr2 := rfl
@[simp] theorem chRaise_cbr1 (f : FlagSet) (c : Channel) : (chRaise f c).cbr1 = c.cbr1 := rfl
@[simp] theorem chRaise_csar (f : FlagSet) (c : Channel) : (chRaise f c).csar = c.csar := rfl
@[simp] theorem chRaise_cdar (f : FlagSet) (c : Channel) : (chRaise f c).cdar = c.cdar := rfl
@[simp] theorem chRaise_ctr3 (f : FlagSet) (c : Channel) : (chRaise f c).ctr3 = c.ctr3 := rfl
@[simp] theorem chRaise_cbr2 (f : FlagSet) (c : Channel) : (chRaise f c).cbr2 = c.cbr2 := rfl
@[simp] theorem chRaise_cllr (f : FlagSet) (c : Channel) : (chRaise f c).cllr = c.cllr := rfl
@[simp] theorem chRaise_lba (f : FlagSet) (c : Channel) : (chRaise f c).lba = c.lba := rfl
@[simp] theorem chRaise_ccr (f : FlagSet) (c : Channel) : (chRaise f c).ccr = c.ccr := rfl
@[simp] theorem chRaise_secAttr (f : FlagSet) (c : Channel) : (chRaise f c).secAttr = c.secAttr := rfl
@[simp] theorem chRaise_hid (f : FlagSet) (c : Channel) : (chRaise f c).hid = c.hid := rfl
@[simp] theorem chRaise_pins (f : FlagSet) (c : Channel) : (chRaise f c).pins = c.pins := rfl
@[simp] theorem chRaise_h (f : FlagSet) (c : Channel) : (chRaise f c).h = c.h := rfl

@[simp] theorem chRaiseFatal_twoD (f : FlagSet) (c : Channel) : (chRaiseFatal f c).twoD = c.twoD := rfl
@[simp] theorem chRaiseFatal_ctr1 (f : FlagSet) (c : Channel) : (chRaiseFatal f c).ctr1 = c.ctr1 := rfl
@[simp] theorem chRaiseFatal_ctr2 (f : FlagSet) (c : Channel) : (chRaiseFatal f c).ctr2 = c.ctr2 := rfl
@[simp] theorem chRaiseFatal_cbr1 (f : FlagSet) (c : Channel) : (chRaiseFatal f c).cbr1 = c.cbr1 := rfl
@[simp] theorem chRaiseFatal_csar (f : FlagSet) (c : Channel) : (chRaiseFatal f c).csar = c.csar := rfl
@[simp] theorem chRaiseFatal_cdar (f : FlagSet) (c : Channel) : (chRaiseFatal f c).cdar = c.cdar := rfl
@[simp] theorem chRaiseFatal_ctr3 (f : FlagSet) (c : Channel) : (chRaiseFatal f c).ctr3 = c.ctr3 := rfl
@[simp] theorem chRaiseFatal_cbr2 (f : FlagSet) (c : Channel) : (chRaiseFatal f c).cbr2 = c.cbr2 := rfl
@[simp] theorem chRaiseFatal_cllr (f : FlagSet) (c : Channel) : (chRaiseFatal f c).cllr = c.cllr := rfl
@[simp] theorem chRaiseFatal_lba (f : FlagSet) (c : Channel) : (chRaiseFatal f c).lba = c.lba := rfl
@[simp] theorem chRaiseFatal_secAttr (f : FlagSet) (c : Channel) : (chRaiseFatal f c).secAttr = c.secAttr := rfl
@[simp] theorem chRaiseFatal_hid (f : FlagSet) (c : Channel) : (chRaiseFatal f c).hid = c.hid := rfl
@[simp] theorem chRaiseFatal_pins (f : FlagSet) (c : Channel) : (chRaiseFatal f c).pins = c.pins := rfl
@[simp] theorem chRaiseFatal_h (f : FlagSet) (c : Channel) : (chRaiseFatal f c).h = c.h := rfl

@[simp] theorem onHandle_twoD (f : Handle → Handle) (c : Channel) : (onHandle f c).twoD = c.twoD := rfl
@[simp] theorem onHandle_ctr1 (f : Handle → Handle) (c : Channel) : (onHandle f c).ctr1 = c.ctr1 := rfl
@[simp] theorem onHandle_ctr2 (f : Handle → Handle) (c : Channel) : (onHandle f c).ctr2 = c.ctr2 := rfl
@[simp] theorem onHandle_cbr1 (f : Handle → Handle) (c : Channel) : (onHandle f c).cbr1 = c.cbr1 := rfl
@[simp] theorem onHandle_csar (f : Handle → Handle) (c : Channel) : (onHandle f c).csar = c.csar := rfl
@[simp] theorem onHandle_cdar (f : Handle → Handle) (c : Channel) : (onHandle f c).cdar = c.cdar := rfl
@[simp] theorem onHandle_ctr3 (f : Handle → Handle) (c : Channel) : (onHandle f c).ctr3 = c.ctr3 := rfl
@[simp] theorem onHandle_cbr2 (f : Handle → Handle) (c : Channel) : (onHandle f c).cbr2 = c.cbr2 := rfl
@[simp] theorem onHandle_cllr (f : Handle → Handle) (c : Channel) : (onHandle f c).cllr = c.cllr := rfl
@[simp] theorem onHandle_lba (f : Handle → Handle) (c : Channel) : (onHandle f c).lba = c.lba := rfl
@[simp] theorem onHandle_ccr (f : Handle → Handle) (c : Channel) : (onHandle f c).ccr = c.ccr := rfl
@[simp] theorem onHandle_csr (f : Handle → Handle) (c : Channel) : (onHandle f c).csr = c.csr := rfl
@[simp] theorem onHandle_secAttr (f : Handle → Handle) (c : Channel) : (onHandle f c).secAttr = c.secAttr := rfl
@[simp] theorem onHandle_hid (f : Handle → Handle) (c : Channel) : (onHandle f c).hid = c.hid := rfl
@[simp] theorem onHandle_pins (f : Handle → Handle) (c : Channel) : (onHandle f c).pins = c.pins := rfl


@[simp] theorem chFlagClear_idle (fs : FlagSet) (c : Channel) : (chFlagClear fs c).csr.idle = c.csr.idle := rfl
@[simp] theorem chFlagClear_flags (fs : FlagSet) (c : Channel) :
    (chFlagClear fs c).csr.flags = flagsDiff c.csr.flags fs := rfl
@[simp] theorem chIeWrite_en (fs : FlagSet) (c : Channel) : (chIeWrite fs c).ccr.en = c.ccr.en := rfl
@[simp] theorem chIeWrite_susp (fs : FlagSet) (c : Channel) : (chIeWrite fs c).ccr.susp = c.ccr.susp := rfl
@[simp] theorem chIeWrite_ie (fs : FlagSet) (c : Channel) : (chIeWrite fs c).ccr.ie = fs := rfl
@[simp] theorem chIeSet_en (fs : FlagSet) (c : Channel) : (chIeSet fs c).ccr.en = c.ccr.en := rfl
@[simp] theorem chIeSet_susp (fs : FlagSet) (c : Channel) : (chIeSet fs c).ccr.susp = c.ccr.susp := rfl
@[simp] theorem chSetPrio_en (L : Layout) (p : Word) (c : Channel) : (chSetPrio L p c).ccr.en = c.ccr.en := rfl
@[simp] theorem chSetPrio_susp (L : Layout) (p : Word) (c : Channel) : (chSetPrio L p c).ccr.susp = c.ccr.susp := rfl
@[simp] theorem chSuspReq_en (c : Channel) : (chSuspReq c).ccr.en = c.ccr.en := by unfold chSuspReq; split <;> simp_all
@[simp] theorem chResume_en (c : Channel) : (chResume c).ccr.en = c.ccr.en := by unfold chResume; split <;> rfl
@[simp] theorem chResume_idle (c : Channel) : (chResume c).csr.idle = c.csr.idle := by unfold chResume; split <;> rfl
@[simp] theorem chReset_en (c : Channel) : (chReset c).ccr.en = false := rfl
@[simp] theorem chReset_susp (c : Channel) : (chReset c).ccr.susp = false := rfl
@[simp] theorem chReset_ie (c : Channel) : (chReset c).ccr.ie = c.ccr.ie := rfl
@[simp] theorem chReset_prio (c : Channel) : (chReset c).ccr.prio = c.ccr.prio := rfl
@[simp] theorem chReset_csr (c : Channel) : (chReset c).csr = ⟨true, FlagSet.empty⟩ := rfl
@[simp] theorem chReset_hid (c : Channel) : (chReset c).hid = Hidden.zero := rfl
@[simp] theorem chRaise_idle (f : FlagSet) (c : Channel) : (chRaise f c).csr.idle = c.csr.idle := rfl
@[simp] theorem chRaise_flags (f : FlagSet) (c : Channel) : (chRaise f c).csr.flags = flagsOr c.csr.flags f := rfl
@[simp] theorem chRaiseFatal_en (f : FlagSet) (c : Channel) : (chRaiseFatal f c).ccr.en = false := rfl
@[simp] theorem chRaiseFatal_susp (f : FlagSet) (c : Channel) : (chRaiseFatal f c).ccr.susp = false := rfl
@[simp] theorem chRaiseFatal_ie (f : FlagSet) (c : Channel) : (chRaiseFatal f c).ccr.ie = c.ccr.ie := rfl
@[simp] theorem chRaiseFatal_idle (f : FlagSet) (c : Channel) : (chRaiseFatal f c).csr.idle = true := rfl
@[simp] theorem chRaiseFatal_flags (f : FlagSet) (c : Channel) :
    (chRaiseFatal f c).csr.flags = flagsOr c.csr.flags f := rfl
@[simp] theorem onHandle_h (f : Handle → Handle) (c : Channel) : (onHandle f c).h = f c.h := rfl

/-! ## Register writes -/

@[simp] theorem linkWrite_twoD (L : Layout) (c : Channel) (r : Reg) (w : Word) : (linkWrite L c r w).twoD = c.twoD := by
  cases r <;> simp only [linkWrite] <;> first | rfl | (split <;> rfl)
@[simp] theorem linkWrite_ccr (L : Layout) (c : Channel) (r : Reg) (w : Word) : (linkWrite L c r w).ccr = c.ccr := by
  cases r <;> simp only [linkWrite] <;> first | rfl | (split <;> rfl)
@[simp] theorem linkWrite_csr (L : Layout) (c : Channel) (r : Reg) (w : Word) : (linkWrite L c r w).csr = c.csr := by
  cases r <;> simp only [linkWrite] <;> first | rfl | (split <;> rfl)
@[simp] theorem linkWrite_secAttr (L : Layout) (c : Channel) (r : Reg) (w : Word) :
    (linkWrite L c r w).secAttr = c.secAttr := by
  cases r <;> simp only [linkWrite] <;> first | rfl | (split <;> rfl)
@[simp] theorem linkWrite_hid (L : Layout) (c : Channel) (r : Reg) (w : Word) : (linkWrite L c r w).hid = c.hid := by
  cases r <;> simp only [linkWrite] <;> first | rfl | (split <;> rfl)
@[simp] theorem linkWrite_pins (L : Layout) (c : Channel) (r : Reg) (w : Word) : (linkWrite L c r w).pins = c.pins := by
  cases r <;> simp only [linkWrite] <;> first | rfl | (split <;> rfl)
@[simp] theorem linkWrite_h (L : Layout) (c : Channel) (r : Reg) (w : Word) : (linkWrite L c r w).h = c.h := by
  cases r <;> simp only [linkWrite] <;> first | rfl | (split <;> rfl)

/-- A write of CTR3 on a channel with 2-D addressing, or none. -/
theorem linkWrite_ctr3 (L : Layout) (c : Channel) (w : Word) :
    linkWrite L c .ctr3 w = { c with ctr3 := if c.twoD then w else c.ctr3 } := by
  cases c with | mk d => cases d <;> rfl

/-- A write of CBR2 on a channel with 2-D addressing, or none. -/
theorem linkWrite_cbr2 (L : Layout) (c : Channel) (w : Word) :
    linkWrite L c .cbr2 w = { c with cbr2 := if c.twoD then w else c.cbr2 } := by
  cases c with | mk d => cases d <;> rfl

/-- A written link register reads back as written, and another one as before (40_register_file.md R143). -/
theorem readReg_linkWrite (k : Cfg) (L : Layout) (c : Channel) (r q : Reg) (w : Word) (hr : isLinkReg r = true)
    (hq : isLinkReg q = true) (hne : r ≠ q) : readReg k (linkWrite L c r w) q = readReg k c q := by
  cases q <;> first | exact absurd hq (by decide) | skip
  all_goals
    cases r <;> first
      | exact absurd rfl hne
      | exact absurd hr (by decide)
      | (simp [linkWrite, readReg, cbr1View]; done)
      | (cases h : c.twoD <;> simp [linkWrite, readReg, cbr1View, h])

/-- A written link register that the channel has reads back what was written (40_register_file.md R143). -/
theorem readReg_linkWrite_same (k : Cfg) (L : Layout) (c : Channel) (r : Reg) (w : Word)
    (hr : r ∈ [Reg.ctr1, .ctr2, .csar, .cdar, .cllr]) : readReg k (linkWrite L c r w) r = w := by
  simp only [List.mem_cons, List.not_mem_nil, or_false] at hr
  rcases hr with rfl | rfl | rfl | rfl | rfl <;> rfl

end Sys2Proof.Machine
end

