-- ==== Sys2Proof/Laws/Engine.lean ====
section
/-! SUPPORT. What the shared operations of the engine can do: the accesses of a data step, the fetch of a link step, and
the steps themselves; and taking an interrupt. -/

namespace Sys2Proof.Machine

/-- The accesses of a data step change the memory, the history and the counter of free values only, and keep the
canonical form of memory. -/
structure OnlyAccesses (s t : State) : Prop where
  rest : t = { s with mem := t.mem, trace := t.trace, fresh := t.fresh }
  mem : Memory.wf s.mem = true → Memory.wf t.mem = true

theorem OnlyAccesses.refl (s : State) : OnlyAccesses s s := ⟨rfl, id⟩

theorem OnlyAccesses.trans {s t u : State} (h : OnlyAccesses s t) (k : OnlyAccesses t u) : OnlyAccesses s u := by
  refine ⟨?_, fun w => k.mem (h.mem w)⟩
  have h1 := h.rest
  have h2 := k.rest
  rw [h1] at h2
  exact h2

theorem OnlyAccesses.chans {s t : State} (h : OnlyAccesses s t) : t.chans = s.chans := by rw [h.rest]
theorem OnlyAccesses.cfg {s t : State} (h : OnlyAccesses s t) : t.cfg = s.cfg := by rw [h.rest]
theorem OnlyAccesses.queues {s t : State} (h : OnlyAccesses s t) : t.queues = s.queues := by rw [h.rest]
theorem OnlyAccesses.tick {s t : State} (h : OnlyAccesses s t) : t.tick = s.tick := by rw [h.rest]
theorem OnlyAccesses.app {s t : State} (h : OnlyAccesses s t) : t.app = s.app := by rw [h.rest]
theorem OnlyAccesses.isr {s t : State} (h : OnlyAccesses s t) : t.isr = s.isr := by rw [h.rest]
theorem OnlyAccesses.agenda {s t : State} (h : OnlyAccesses s t) : t.agenda = s.agenda := by rw [h.rest]
theorem OnlyAccesses.quantum {s t : State} (h : OnlyAccesses s t) : t.quantum = s.quantum := by rw [h.rest]
theorem OnlyAccesses.chan {s t : State} (h : OnlyAccesses s t) (i : Nat) : t.chan i = s.chan i := by
  unfold State.chan; rw [h.chans]

/-- A data read changes no memory (20_memory.md R81). -/
theorem dataRead_mem (i : Nat) (a : Word) (n : Nat) (s : State) : (dataRead i a n s).2.mem = s.mem := by
  unfold dataRead; split <;> rfl

theorem dataRead_only (i : Nat) (a : Word) (n : Nat) (s : State) : OnlyAccesses s (dataRead i a n s).2 := by
  unfold dataRead; split <;> exact ⟨rfl, id⟩

/-- A read of memory, not of a peripheral register, answers with the bytes stored there. -/
theorem dataRead_memory (i : Nat) (a : Word) (n : Nat) (s : State) (h : s.isDevice a = false) :
    dataRead i a n s = (readBytes s.mem a n, { s with trace := s.trace ++ [.read i a (readBytes s.mem a n)] }) := by
  simp [dataRead, h]

theorem dataWrite_only (i : Nat) (a : Word) (bs : List Byte) (s : State) : OnlyAccesses s (dataWrite i a bs s) := by
  refine ⟨rfl, fun h => ?_⟩
  unfold dataWrite
  dsimp only
  split
  · exact h
  · exact writeBytes_wf _ _ _ h

/-- The source reads of a data step. -/
theorem sourceReads_only (i n : Nat) (as : List Word) (acc : List Byte) (s : State) :
    OnlyAccesses s (sourceReads i n as acc s).2 ∧ (sourceReads i n as acc s).2.mem = s.mem := by
  induction as generalizing acc s with
  | nil => exact ⟨OnlyAccesses.refl s, rfl⟩
  | cons a as ih =>
    unfold sourceReads
    split
    · obtain ⟨h1, h2⟩ := ih (acc ++ (dataRead i a n s).1) (dataRead i a n s).2
      exact ⟨(dataRead_only i a n s).trans h1, h2.trans (dataRead_mem i a n s)⟩
    · exact ⟨OnlyAccesses.refl s, rfl⟩

/-- The destination writes of a data step. -/
theorem destWrites_only (i n : Nat) (ws : List (Word × List Byte)) (s : State) :
    OnlyAccesses s (destWrites i n ws s).2 := by
  induction ws generalizing s with
  | nil => exact OnlyAccesses.refl s
  | cons p ws ih =>
    obtain ⟨a, bs⟩ := p
    unfold destWrites
    split
    · exact (dataWrite_only i a bs s).trans (ih _)
    · exact OnlyAccesses.refl s

/-- A byte that none of the destination writes names reads as before. -/
theorem destWrites_mem (i n : Nat) (ws : List (Word × List Byte)) (s : State) (x : Word)
    (h : ∀ p ∈ ws, ∀ k < p.2.length, x ≠ p.1 + BitVec.ofNat 32 k) :
    memRead (destWrites i n ws s).2.mem x.toNat = memRead s.mem x.toNat := by
  induction ws generalizing s with
  | nil => rfl
  | cons p ws ih =>
    obtain ⟨a, bs⟩ := p
    unfold destWrites
    split
    · rw [ih _ fun q hq => h q (by simp [hq])]
      unfold dataWrite
      dsimp only
      split
      · rfl
      · exact memRead_writeBytes_ne _ _ _ _ (h (a, bs) (by simp))
    · rfl

/-- The accesses of a data step, done or refused. -/
theorem dataAccess_only (i : Nat) (s : State) : OnlyAccesses s (dataAccess i s).2 := by
  unfold dataAccess
  dsimp only
  split
  · rename_i s1 h
    have := (sourceReads_only i (srcItem s.cfg.layout (s.chan i))
      (accessAddrs (s.chan i).csar (Fld.srcInc.test s.cfg.layout (s.chan i).ctr1) (srcItem s.cfg.layout (s.chan i))
        (stepBytes s.cfg.layout (s.chan i) / srcItem s.cfg.layout (s.chan i))) [] s).1
    rw [h] at this
    exact this
  · rename_i bs s1 h
    have h0 := (sourceReads_only i (srcItem s.cfg.layout (s.chan i))
      (accessAddrs (s.chan i).csar (Fld.srcInc.test s.cfg.layout (s.chan i).ctr1) (srcItem s.cfg.layout (s.chan i))
        (stepBytes s.cfg.layout (s.chan i) / srcItem s.cfg.layout (s.chan i))) [] s).1
    rw [h] at h0
    split
    · rename_i s2 h2
      have := destWrites_only i (dstItem s.cfg.layout (s.chan i))
        ((accessAddrs (s.chan i).cdar (Fld.dstInc.test s.cfg.layout (s.chan i).ctr1)
          (dstItem s.cfg.layout (s.chan i))
          (items (dstItem s.cfg.layout (s.chan i)) (transform s.cfg.layout (s.chan i) bs)).length).zip
            (items (dstItem s.cfg.layout (s.chan i)) (transform s.cfg.layout (s.chan i) bs))) s1
      rw [h2] at this
      exact h0.trans this
    · rename_i s2 h2
      have := destWrites_only i (dstItem s.cfg.layout (s.chan i))
        ((accessAddrs (s.chan i).cdar (Fld.dstInc.test s.cfg.layout (s.chan i).ctr1)
          (dstItem s.cfg.layout (s.chan i))
          (items (dstItem s.cfg.layout (s.chan i)) (transform s.cfg.layout (s.chan i) bs)).length).zip
            (items (dstItem s.cfg.layout (s.chan i)) (transform s.cfg.layout (s.chan i) bs))) s1
      rw [h2] at this
      exact h0.trans this

/-- Everything a data step can do: its accesses, then DTE or the moved registers (45_channel_engine.md R308, R321). -/
theorem dataStep_cases (i : Nat) (s : State) :
    ((dataAccess i s).1 = none ∧ dataStep i s = (dataAccess i s).2.setChan i (chRaiseFatal flagDTE (s.chan i)))
    ∨ ∃ nw, (dataAccess i s).1 = some nw ∧
        dataStep i s = (dataAccess i s).2.setChan i
          (advance s.cfg (stepBytes s.cfg.layout (s.chan i)) nw (s.chan i)) := by
  unfold dataStep
  split
  · rename_i s' h; left; simp [h]
  · rename_i nw s' h; right; exact ⟨nw, by simp [h]⟩

/-- Everything a link step can do: ULE, or the loaded node begun (45_channel_engine.md R316, R322). -/
theorem linkStep_cases (i : Nat) (s : State) :
    (linkLoad i s = none ∧ linkStep i s = s.setChan i (chRaiseFatal flagULE (s.chan i)))
    ∨ ∃ c, linkLoad i s = some c ∧
        linkStep i s = s.setChan i (afterLoad s.cfg (linkLoadsCbr1 s.cfg.layout (s.chan i)) c) := by
  unfold linkStep
  split
  · rename_i h; left; simp [h]
  · rename_i c h; right; exact ⟨c, by simp [h]⟩

/-- A fetch that succeeds loads exactly the selected registers (40_register_file.md R150). -/
theorem linkLoad_some {i : Nat} {s : State} {c : Channel} (h : linkLoad i s = some c) :
    crossesWindow s.cfg.layout (s.chan i) = false ∧ fetchAdmitted i s = true
      ∧ c = loadWords s.cfg.layout (s.chan i) (fetchWords i s) := by
  unfold linkLoad at h
  split at h
  · cases h
  · rename_i hb
    simp only [Bool.or_eq_true, Bool.not_eq_true'] at hb
    exact ⟨by simpa using fun e => hb (Or.inl e), by simpa using fun e => hb (Or.inr e), (Option.some.inj h).symm⟩

/-- A data step that is taken was enabled. -/
theorem takeData_cases (i : Nat) (s : State) :
    (dataEnabled s i = false ∧ takeData i s = s) ∨ (dataEnabled s i = true ∧ takeData i s = dataStep i s) := by
  unfold takeData; cases h : dataEnabled s i <;> simp

theorem takeLink_cases (i : Nat) (s : State) :
    (linkEnabled s i = false ∧ takeLink i s = s) ∨ (linkEnabled s i = true ∧ takeLink i s = linkStep i s) := by
  unfold takeLink; cases h : linkEnabled s i <;> simp

/-- A channel that may be granted exists, is enabled and is not paused (46_arbiter.md R341). -/
theorem grantable_running {s : State} {i : Nat} (h : grantable s i = true) :
    i < s.chans.length ∧ (s.chan i).ccr.en = true ∧ (s.chan i).hid.paused = false := by
  simp only [grantable, wants, running, State.hasChan, Bool.and_eq_true, decide_eq_true_eq, Bool.not_eq_true'] at h
  exact ⟨h.1.1, h.1.2.1.1, h.1.2.1.2⟩

theorem dataEnabled_grantable {s : State} {i : Nat} (h : dataEnabled s i = true) : grantable s i = true := by
  simp only [dataEnabled, Bool.and_eq_true] at h; exact h.1

theorem linkEnabled_grantable {s : State} {i : Nat} (h : linkEnabled s i = true) : grantable s i = true := by
  simp only [linkEnabled, Bool.and_eq_true] at h; exact h.1

/-- `CfgValid` as a list of conditions (45_channel_engine.md R303; the reserved trigger polarity: log 47). -/
theorem cfgValid_iff (k : Cfg) (c : Channel) :
    cfgValid k c = true ↔
      Fld.srcWidth.get k.layout c.ctr1 ≠ 3 ∧ Fld.dstWidth.get k.layout c.ctr1 ≠ 3
      ∧ (k.polarityChecked = true → Fld.trigPol.get k.layout c.ctr2 ≠ 3)
      ∧ bndtOf k.layout c % srcItem k.layout c = 0 ∧ c.csar.toNat % srcItem k.layout c = 0
      ∧ c.cdar.toNat % dstItem k.layout c = 0 := by
  cases h : k.polarityChecked <;> simp [cfgValid, and_assoc, h]

/-- Taking an interrupt changes only which handler runs (60_exceptions.md R354, R357). -/
theorem takeInterrupt_cases (ch : Nat) (s : State) :
    takeInterrupt ch s = s
    ∨ (s.isr = none ∧ ch < s.chans.length ∧ s.irqLine ch = true
        ∧ takeInterrupt ch s = { s with isr := some ⟨ch, false, none, none, []⟩ }) := by
  unfold takeInterrupt
  split
  · rename_i h
    simp only [Bool.and_eq_true, State.hasChan, decide_eq_true_eq, Option.isNone_iff_eq_none] at h
    exact Or.inr ⟨h.1.1, h.1.2, h.2, rfl⟩
  · exact Or.inl rfl

end Sys2Proof.Machine
end

