-- ==== Sys2Proof/Laws/Fields.lean ====
section
/-! SUPPORT. Laws of the fields of a register word (30_encoding.md R109, 40_register_file.md R142) for every well-formed
layout: reading a field that was written, reading another one; and that LAYOUT_U5 and the default parameters are well
formed (30_encoding.md R114). -/

namespace Sys2Proof

/-- Bit `i` of a field's value mask. -/
theorem Fld.ones_getLsbD (f : Fld) (L : Layout) (i : Nat) :
    (f.ones L).getLsbD i = (decide (i < 32) && decide (i < f.width L)) := by
  simp [Fld.ones, BitVec.getLsbD_ofNat, Nat.testBit_two_pow_sub_one]

/-- Bit `i` of a field's mask. -/
theorem Fld.mask_getLsbD (f : Fld) (L : Layout) (i : Nat) :
    (f.mask L).getLsbD i = (decide (i < 32) && decide (f.lo L ≤ i) && decide (i < f.lo L + f.width L)) := by
  simp only [Fld.mask, BitVec.getLsbD_shiftLeft, Fld.ones_getLsbD]
  by_cases h1 : i < 32 <;> by_cases h2 : f.lo L ≤ i <;> by_cases h3 : i < f.lo L + f.width L <;>
    simp [h1, h2, h3] <;> omega

/-- Bit `i` of a word with one field replaced. -/
theorem Fld.ins_getLsbD (f : Fld) (L : Layout) (v w : Word) (i : Nat) :
    (f.ins L v w).getLsbD i =
      if f.lo L ≤ i ∧ i < f.lo L + f.width L ∧ i < 32 then v.getLsbD (i - f.lo L) else w.getLsbD i := by
  simp only [Fld.ins, BitVec.getLsbD_or, BitVec.getLsbD_and, BitVec.getLsbD_not, BitVec.getLsbD_shiftLeft,
    Fld.mask_getLsbD]
  by_cases h1 : i < 32
  · by_cases h2 : f.lo L ≤ i
    · by_cases h3 : i < f.lo L + f.width L
      · have e3 : ¬ i < f.lo L := by omega
        simp [h1, h2, h3, e3]
      · simp [h1, h3]
    · simp [h1, h2]
  · have e4 : w.getLsbD i = false := BitVec.getLsbD_of_ge _ _ (by omega)
    simp [h1, e4]

/-- Bit `i` of a field that was read. -/
theorem Fld.get_getLsbD (f : Fld) (L : Layout) (w : Word) (i : Nat) :
    (f.get L w).getLsbD i = (w.getLsbD (f.lo L + i) && decide (i < f.width L)) := by
  simp only [Fld.get, BitVec.getLsbD_and, BitVec.getLsbD_ushiftRight, Fld.ones_getLsbD]
  by_cases h : i < 32
  · simp [h]
  · have : w.getLsbD (f.lo L + i) = false := BitVec.getLsbD_of_ge _ _ (by omega)
    simp [this]

/-- `f` is in the list of all fields. -/
theorem Fld.mem_all (f : Fld) : f ∈ Fld.all := by cases f <;> decide

/-- LAYOUT_U5 is well formed: every field lies in its register, two different fields of one register share no bit, the
update bits lie in bits 31..16 (30_encoding.md R114). -/
theorem Layout.u5_wf : Layout.u5.wf = true := by decide +kernel

/-- The default parameters are well formed. -/
theorem Cfg.default_wf : Cfg.default.wf = true := by decide +kernel

theorem Cfg.wf_layout {k : Cfg} (h : k.wf = true) : k.layout.wf = true := by
  simp only [Cfg.wf, Bool.and_eq_true] at h; exact h.1

/-- Every field lies inside its register (30_encoding.md R114). -/
theorem Fld.lo_add_width_le (f : Fld) {L : Layout} (hL : L.wf = true) : f.lo L + f.width L ≤ 32 := by
  simp only [Layout.wf, Bool.and_eq_true] at hL
  have h := List.all_eq_true.mp hL.1.1 f (Fld.mem_all f)
  simpa using h

theorem Fld.disjoint_of_ne (f g : Fld) {L : Layout} (hL : L.wf = true) (hr : f.reg = g.reg) (hne : f ≠ g) :
    f.disjoint g L = true := by
  simp only [Layout.wf, Bool.and_eq_true] at hL
  have h := List.all_eq_true.mp hL.1.2 f (Fld.mem_all f)
  have h := List.all_eq_true.mp h g (Fld.mem_all g)
  simpa [hr, hne] using h

/-- The update bits lie in the upper half of CLLR (10_state.md R28). -/
theorem Fld.update_lo (f : Fld) {L : Layout} (hL : L.wf = true) (hf : f ∈ Fld.updates) : 16 ≤ f.lo L := by
  simp only [Layout.wf, Bool.and_eq_true] at hL
  have h := List.all_eq_true.mp hL.2 f hf
  simpa using h

/-- A written field reads as the low bits of the value written. -/
theorem Fld.get_ins_same (f : Fld) {L : Layout} (hL : L.wf = true) (v w : Word) :
    f.get L (f.ins L v w) = v &&& f.ones L := by
  apply BitVec.eq_of_getLsbD_eq
  intro i hi
  have hb := f.lo_add_width_le hL
  rw [Fld.get_getLsbD, Fld.ins_getLsbD, BitVec.getLsbD_and, Fld.ones_getLsbD]
  by_cases h : i < f.width L
  · have : f.lo L + i < 32 := by omega
    simp [h, hi, this]
  · simp [h]

/-- A field reads as before when another field of its register is written. -/
theorem Fld.get_ins_of_disjoint (f g : Fld) (L : Layout) (v w : Word) (h : f.disjoint g L = true) :
    f.get L (g.ins L v w) = f.get L w := by
  apply BitVec.eq_of_getLsbD_eq
  intro i hi
  rw [Fld.get_getLsbD, Fld.get_getLsbD, Fld.ins_getLsbD]
  simp only [Fld.disjoint, Bool.or_eq_true, decide_eq_true_eq] at h
  by_cases hw : i < f.width L
  · rw [if_neg (by omega)]
  · simp [hw]

theorem Fld.get_ins_ne (f g : Fld) {L : Layout} (hL : L.wf = true) (v w : Word) (hr : f.reg = g.reg) (hne : f ≠ g) :
    f.get L (g.ins L v w) = f.get L w :=
  Fld.get_ins_of_disjoint f g L v w (Fld.disjoint_of_ne f g hL hr hne)

/-- A written one-bit field tests as bit 0 of the value written. -/
theorem Fld.test_ins_same (f : Fld) {L : Layout} (hL : L.wf = true) (v w : Word) (h : f.width L = 1) :
    f.test L (f.ins L v w) = v.getLsbD 0 := by
  have hb := f.lo_add_width_le hL
  rw [Fld.test, Fld.ins_getLsbD, if_pos (by omega)]
  simp

theorem Fld.test_ins_ne (f g : Fld) {L : Layout} (hL : L.wf = true) (v w : Word) (hr : f.reg = g.reg) (hne : f ≠ g)
    (hp : 0 < f.width L) : f.test L (g.ins L v w) = f.test L w := by
  have h := Fld.disjoint_of_ne f g hL hr hne
  simp only [Fld.disjoint, Bool.or_eq_true, decide_eq_true_eq] at h
  rw [Fld.test, Fld.test, Fld.ins_getLsbD, if_neg (by omega)]

/-- A field keeps a value that fits it. -/
theorem Fld.and_ones_of_lt (f : Fld) (L : Layout) (v : Word) (h : v.toNat < 2 ^ f.width L) : v &&& f.ones L = v := by
  apply BitVec.eq_of_getLsbD_eq
  intro i hi
  rw [BitVec.getLsbD_and, Fld.ones_getLsbD]
  by_cases hw : i < f.width L
  · simp [hw, hi]
  · have : v.getLsbD i = false := by
      rw [BitVec.getLsbD, Nat.testBit_lt_two_pow]
      exact lt_of_lt_of_le h (Nat.pow_le_pow_right (by decide) (by omega))
    simp [hw, this]

/-- A field that none of the writes names reads as before. -/
theorem Fld.get_insFields (f : Fld) {L : Layout} (hL : L.wf = true) (fs : List (Fld × Word)) (w : Word)
    (h : ∀ p ∈ fs, p.1.reg = f.reg ∧ p.1 ≠ f) : f.get L (insFields L fs w) = f.get L w := by
  induction fs generalizing w with
  | nil => rfl
  | cons p fs ih =>
    have hp := h p (by simp)
    have := ih (p.1.ins L p.2 w) fun q hq => h q (by simp [hq])
    rw [insFields, List.foldl_cons]
    rw [insFields] at this
    rw [this, Fld.get_ins_ne f p.1 hL _ _ hp.1.symm (Ne.symm hp.2)]

end Sys2Proof
end

