-- ==== Sys2Proof/Laws/Inv.lean ====
section
/-! SUPPORT. What each update of a channel does to the invariant of a channel (Safety.lean). -/

namespace Sys2Proof.Machine

open Sys2Proof.Safety

/-- The invariant looks at these components only. -/
theorem ChannelInv_congr {L : Layout} {c d : Channel} (h : ChannelInv L c) (h1 : d.twoD = c.twoD) (h2 : d.cbr1 = c.cbr1)
    (h3 : d.ctr3 = c.ctr3) (h4 : d.cbr2 = c.cbr2) (h5 : d.ccr.en = c.ccr.en) (h6 : d.ccr.susp = c.ccr.susp)
    (h7 : d.csr.idle = c.csr.idle) (h8 : d.hid.paused = c.hid.paused) (h9 : d.ccr.prio = c.ccr.prio) : ChannelInv L d where
  idle := by have := h.idle; simp_all [idleCoherent]
  suspend := by have := h.suspend; simp_all [suspendCoherent]
  linear := by have := h.linear; simp_all [linearCoherent]
  prio := by have := h.prio; simp_all [prioFits]

theorem chFlagClear_inv (fs : FlagSet) {L : Layout} {c : Channel} (h : ChannelInv L c) :
    ChannelInv L (chFlagClear fs c) :=
  ChannelInv_congr h rfl rfl rfl rfl rfl rfl rfl rfl rfl

theorem chIeWrite_inv (fs : FlagSet) {L : Layout} {c : Channel} (h : ChannelInv L c) : ChannelInv L (chIeWrite fs c) :=
  ChannelInv_congr h rfl rfl rfl rfl rfl rfl rfl rfl rfl

theorem chIeSet_inv (fs : FlagSet) {L : Layout} {c : Channel} (h : ChannelInv L c) : ChannelInv L (chIeSet fs c) :=
  ChannelInv_congr h rfl rfl rfl rfl rfl rfl rfl rfl rfl

theorem chSetPrio_inv (p : Word) {L : Layout} {c : Channel} (h : ChannelInv L c) : ChannelInv L (chSetPrio L p c) where
  idle := h.idle
  suspend := h.suspend
  linear := h.linear
  prio := by simp only [prioFits, chSetPrio, BitVec.and_assoc, BitVec.and_self]

theorem chRaise_inv (f : FlagSet) {L : Layout} {c : Channel} (h : ChannelInv L c) : ChannelInv L (chRaise f c) :=
  ChannelInv_congr h rfl rfl rfl rfl rfl rfl rfl rfl rfl

theorem onHandle_inv (f : Handle → Handle) {L : Layout} {c : Channel} (h : ChannelInv L c) :
    ChannelInv L (onHandle f c) :=
  ChannelInv_congr h rfl rfl rfl rfl rfl rfl rfl rfl rfl

theorem chSetError_inv (on : Bool) (e : BitVec 4) {L : Layout} {c : Channel} (h : ChannelInv L c) :
    ChannelInv L (chSetError on e c) := by
  cases on
  · exact h
  · exact onHandle_inv (fun x => { x with lastError := e }) h

theorem chSuspReq_inv {L : Layout} {c : Channel} (h : ChannelInv L c) : ChannelInv L (chSuspReq c) := by
  cases he : c.ccr.en
  · simpa [chSuspReq, he] using h
  · constructor
    · have := h.idle; simp_all [chSuspReq, idleCoherent]
    · simp [chSuspReq, he, suspendCoherent]
    · have := h.linear; simp_all [chSuspReq, linearCoherent]
    · have := h.prio; simp_all [chSuspReq, prioFits]

theorem chResume_inv {L : Layout} {c : Channel} (h : ChannelInv L c) : ChannelInv L (chResume c) := by
  cases he : c.ccr.susp
  · simpa [chResume, he] using h
  · constructor
    · have := h.idle; simp_all [chResume, idleCoherent]
    · simp [chResume, he, suspendCoherent]
    · have := h.linear; simp_all [chResume, linearCoherent]
    · have := h.prio; simp_all [chResume, prioFits]

theorem chReset_inv {L : Layout} {c : Channel} (h : ChannelInv L c) : ChannelInv L (chReset c) where
  idle := rfl
  suspend := fun _ => ⟨rfl, rfl⟩
  linear := h.linear
  prio := h.prio

/-- A raise that stops the channel keeps the invariant when the channel is not paused. -/
theorem chRaiseFatal_inv (f : FlagSet) {L : Layout} {c : Channel} (h : ChannelInv L c) (hp : c.hid.paused = false) :
    ChannelInv L (chRaiseFatal f c) where
  idle := rfl
  suspend := fun _ => ⟨rfl, hp⟩
  linear := h.linear
  prio := h.prio

/-- What the CBR1 of a channel holds, bit by bit, outside the bits it has. -/
theorem cbr1View_linear (L : Layout) (c : Channel) (w : Word) (h : c.twoD = false) :
    cbr1View L c w &&& ~~~(cbr1LinearMask L) = 0 := by
  simp only [cbr1View, h, Bool.false_eq_true, if_false]
  rw [BitVec.and_assoc]
  simp

theorem linkWrite_inv (r : Reg) (w : Word) {L : Layout} {c : Channel} (h : ChannelInv L c) :
    ChannelInv L (linkWrite L c r w) := by
  have hl := h.linear
  cases r
  case cbr1 =>
    refine ⟨h.idle, h.suspend, fun h2 => ?_, h.prio⟩
    exact ⟨(hl h2).1, (hl h2).2.1, cbr1View_linear L c w h2⟩
  case ctr3 =>
    rw [linkWrite_ctr3]
    refine ⟨h.idle, h.suspend, fun h2 => ?_, h.prio⟩
    have h2' : c.twoD = false := h2
    simpa [h2'] using hl h2'
  case cbr2 =>
    rw [linkWrite_cbr2]
    refine ⟨h.idle, h.suspend, fun h2 => ?_, h.prio⟩
    have h2' : c.twoD = false := h2
    simpa [h2'] using hl h2'
  all_goals exact ChannelInv_congr h rfl rfl rfl rfl rfl rfl rfl rfl rfl

/-- A link load writes none of EN, SUSP, IDLE and the hidden state. -/
theorem loadWords_keeps (L : Layout) (ws : List (Reg × Word)) (c : Channel) :
    (loadWords L c ws).twoD = c.twoD ∧ (loadWords L c ws).ccr = c.ccr ∧ (loadWords L c ws).csr = c.csr
      ∧ (loadWords L c ws).hid = c.hid ∧ (loadWords L c ws).h = c.h ∧ (loadWords L c ws).pins = c.pins := by
  induction ws generalizing c with
  | nil => simp [loadWords]
  | cons p ws ih =>
    have h := ih (linkWrite L c p.1 p.2)
    simp only [loadWords, List.foldl_cons] at h ⊢
    simpa using h

theorem loadWords_inv (ws : List (Reg × Word)) {L : Layout} {c : Channel} (h : ChannelInv L c) :
    ChannelInv L (loadWords L c ws) := by
  induction ws generalizing c with
  | nil => exact h
  | cons p ws ih => exact ih (linkWrite_inv p.1 p.2 h)

end Sys2Proof.Machine
end

