-- ==== Sys2Proof/Laws/PerInstr.lean ====
section
/-! SUPPORT. A statement made per instruction: the packet of an instruction carries the channel the instruction acts on,
and channel 0 where it takes none (30_encoding.md R117, R119). -/

namespace Sys2Proof.Laws.PacketChannel

/-- The channel that a packet carries. -/
def packetChannel : Packet → ChId
  | .cmd w _ => w.extractLsb' 8 8
  | .bus ch _ _ => ch
  | .linkWord ch _ => ch
  | .node ch _ => ch

/-- The channel an instruction acts on; 0 where it takes none. -/
def instrChannel : Instr → ChId
  | .init ch | .deinit ch | .setConfigDirect ch _ | .getConfigDirect ch | .setConfigLinkedList ch _
  | .getConfigLinkedList ch | .setHwRequestMode ch _ | .resetHwRequestMode ch | .getHwRequestMode ch
  | .setPort ch _ _ | .resetPort ch | .getPort ch | .setBurst ch _ _ | .resetBurst ch | .getBurst ch
  | .setTrigger ch _ | .resetTrigger ch | .getTrigger ch | .setDataHandling ch _ | .resetDataHandling ch
  | .getDataHandling ch | .setRepeatBlock ch _ | .resetRepeatBlock ch | .getRepeatBlock ch | .setSecurity ch _
  | .resetSecurity ch | .getSecurity ch | .registerCallback ch _ _ | .setUserData ch _ | .getUserData ch
  | .startDirect ch _ _ _ _ | .startLinkedList ch _ _ | .suspend ch | .suspendIt ch | .resume ch | .abort ch
  | .abortIt ch | .pollForTransfer ch _ _ | .irqHandler ch | .getState ch | .getLastError ch
  | .getRemainingBytes ch | .startDirectSilent ch _ _ _ | .startDirectIt ch _ _ _
  | .startDirectItOpt ch _ _ _ _ | .startLinkedListSilent ch _ | .startLinkedListIt ch _
  | .startLinkedListItOpt ch _ _ | .link ch _ _ | .linkEnd ch | .linkStaticLinear ch _
  | .linkStaticTwoDimensional ch _ | .linkDynamic ch _ _ | .nLinS ch _ | .n2dS ch _ | .nLinD ch _ | .n2dD ch _
  | .regRead ch _ | .fieldWrite ch _ _ | .regWrite ch _ _ | .ctrlWordWrite ch _ _ | .flagClear ch _
  | .ieWrite ch _ | .ieSet ch _ | .hwEnable ch | .status ch | .linkLoad ch | .hwSuspendReq ch | .hwResume ch
  | .hwReset ch | .eStart ch | .eData ch | .eBlockEnd ch | .eComplete ch | .eLink ch | .eRaiseDte ch
  | .eRaiseUle ch | .eRaiseUse ch | .eRaiseTo ch | .eSuspAck ch | .aGrant ch => ch
  | .fillNode _ _ | .decodeNode _ | .convertToDynamic _ | .convertToStatic _ | .updateDynamicQueueLinks _
  | .queueInit _ _ | .queueInsert _ _ _ | .queueRemove _ _ | .queueReplace _ _ _ | .queueSetCircular _ _
  | .queueClearCircular _ => 0

/-- The packet of an instruction carries its channel, whatever the parameters. -/
def Statement (i : Instr) : Prop := ∀ k p, encode k i = some p → packetChannel p = instrChannel i

theorem cmdPacket_channel (ch : ChId) (op : BitVec 6) (args : List Word) :
    packetChannel (cmdPacket ch op args) = ch := by
  simp only [packetChannel, cmdPacket, cmdWord]
  apply BitVec.eq_of_getLsbD_eq
  intro i hi
  have e : (ch ++ (0#2 ++ op)).getLsbD (8 + i) = ch.getLsbD i := by
    rw [BitVec.getLsbD_append, if_neg (by omega)]
    congr 1
    omega
  rw [BitVec.getLsbD_extractLsb', decide_eq_true hi, Bool.true_and, e]

theorem init (x0 : ChId) : Statement (.init x0) := by
  intro k p h; cases h; exact cmdPacket_channel _ _ _

theorem deinit (x0 : ChId) : Statement (.deinit x0) := by
  intro k p h; cases h; exact cmdPacket_channel _ _ _

theorem setConfigDirect (x0 : ChId) (x1 : DirectConfig) : Statement (.setConfigDirect x0 x1) := by
  intro k p h; cases h; exact cmdPacket_channel _ _ _

theorem getConfigDirect (x0 : ChId) : Statement (.getConfigDirect x0) := by
  intro k p h; cases h; exact cmdPacket_channel _ _ _

theorem setConfigLinkedList (x0 : ChId) (x1 : Word) : Statement (.setConfigLinkedList x0 x1) := by
  intro k p h; cases h; exact cmdPacket_channel _ _ _

theorem getConfigLinkedList (x0 : ChId) : Statement (.getConfigLinkedList x0) := by
  intro k p h; cases h; exact cmdPacket_channel _ _ _

theorem setHwRequestMode (x0 : ChId) (x1 : HwMode) : Statement (.setHwRequestMode x0 x1) := by
  intro k p h; cases h; exact cmdPacket_channel _ _ _

theorem resetHwRequestMode (x0 : ChId) : Statement (.resetHwRequestMode x0) := by
  intro k p h; cases h; exact cmdPacket_channel _ _ _

theorem getHwRequestMode (x0 : ChId) : Statement (.getHwRequestMode x0) := by
  intro k p h; cases h; exact cmdPacket_channel _ _ _

theorem setPort (x0 : ChId) (x1 : Port) (x2 : Port) : Statement (.setPort x0 x1 x2) := by
  intro k p h; cases h; exact cmdPacket_channel _ _ _

theorem resetPort (x0 : ChId) : Statement (.resetPort x0) := by
  intro k p h; cases h; exact cmdPacket_channel _ _ _

theorem getPort (x0 : ChId) : Statement (.getPort x0) := by
  intro k p h; cases h; exact cmdPacket_channel _ _ _

theorem setBurst (x0 : ChId) (x1 : Word) (x2 : Word) : Statement (.setBurst x0 x1 x2) := by
  intro k p h; cases h; exact cmdPacket_channel _ _ _

theorem resetBurst (x0 : ChId) : Statement (.resetBurst x0) := by
  intro k p h; cases h; exact cmdPacket_channel _ _ _

theorem getBurst (x0 : ChId) : Statement (.getBurst x0) := by
  intro k p h; cases h; exact cmdPacket_channel _ _ _

theorem setTrigger (x0 : ChId) (x1 : Trigger) : Statement (.setTrigger x0 x1) := by
  intro k p h; cases h; exact cmdPacket_channel _ _ _

theorem resetTrigger (x0 : ChId) : Statement (.resetTrigger x0) := by
  intro k p h; cases h; exact cmdPacket_channel _ _ _

theorem getTrigger (x0 : ChId) : Statement (.getTrigger x0) := by
  intro k p h; cases h; exact cmdPacket_channel _ _ _

theorem setDataHandling (x0 : ChId) (x1 : DataHandling) : Statement (.setDataHandling x0 x1) := by
  intro k p h; cases h; exact cmdPacket_channel _ _ _

theorem resetDataHandling (x0 : ChId) : Statement (.resetDataHandling x0) := by
  intro k p h; cases h; exact cmdPacket_channel _ _ _

theorem getDataHandling (x0 : ChId) : Statement (.getDataHandling x0) := by
  intro k p h; cases h; exact cmdPacket_channel _ _ _

theorem setRepeatBlock (x0 : ChId) (x1 : RepeatBlock) : Statement (.setRepeatBlock x0 x1) := by
  intro k p h; cases h; exact cmdPacket_channel _ _ _

theorem resetRepeatBlock (x0 : ChId) : Statement (.resetRepeatBlock x0) := by
  intro k p h; cases h; exact cmdPacket_channel _ _ _

theorem getRepeatBlock (x0 : ChId) : Statement (.getRepeatBlock x0) := by
  intro k p h; cases h; exact cmdPacket_channel _ _ _

theorem setSecurity (x0 : ChId) (x1 : Security) : Statement (.setSecurity x0 x1) := by
  intro k p h; cases h; exact cmdPacket_channel _ _ _

theorem resetSecurity (x0 : ChId) : Statement (.resetSecurity x0) := by
  intro k p h; cases h; exact cmdPacket_channel _ _ _

theorem getSecurity (x0 : ChId) : Statement (.getSecurity x0) := by
  intro k p h; cases h; exact cmdPacket_channel _ _ _

theorem registerCallback (x0 : ChId) (x1 : Slot) (x2 : Word) : Statement (.registerCallback x0 x1 x2) := by
  intro k p h; cases h; exact cmdPacket_channel _ _ _

theorem setUserData (x0 : ChId) (x1 : Word) : Statement (.setUserData x0 x1) := by
  intro k p h; cases h; exact cmdPacket_channel _ _ _

theorem getUserData (x0 : ChId) : Statement (.getUserData x0) := by
  intro k p h; cases h; exact cmdPacket_channel _ _ _

theorem startDirect (x0 : ChId) (x1 : Word) (x2 : Word) (x3 : Word) (x4 : IntSet) : Statement (.startDirect x0 x1 x2 x3 x4) := by
  intro k p h; cases h; exact cmdPacket_channel _ _ _

theorem startLinkedList (x0 : ChId) (x1 : Word) (x2 : IntSet) : Statement (.startLinkedList x0 x1 x2) := by
  intro k p h; cases h; exact cmdPacket_channel _ _ _

theorem suspend (x0 : ChId) : Statement (.suspend x0) := by
  intro k p h; cases h; exact cmdPacket_channel _ _ _

theorem suspendIt (x0 : ChId) : Statement (.suspendIt x0) := by
  intro k p h; cases h; exact cmdPacket_channel _ _ _

theorem resume (x0 : ChId) : Statement (.resume x0) := by
  intro k p h; cases h; exact cmdPacket_channel _ _ _

theorem abort (x0 : ChId) : Statement (.abort x0) := by
  intro k p h; cases h; exact cmdPacket_channel _ _ _

theorem abortIt (x0 : ChId) : Statement (.abortIt x0) := by
  intro k p h; cases h; exact cmdPacket_channel _ _ _

theorem pollForTransfer (x0 : ChId) (x1 : Level) (x2 : Word) : Statement (.pollForTransfer x0 x1 x2) := by
  intro k p h; cases h; exact cmdPacket_channel _ _ _

theorem irqHandler (x0 : ChId) : Statement (.irqHandler x0) := by
  intro k p h; cases h; exact cmdPacket_channel _ _ _

theorem getState (x0 : ChId) : Statement (.getState x0) := by
  intro k p h; cases h; exact cmdPacket_channel _ _ _

theorem getLastError (x0 : ChId) : Statement (.getLastError x0) := by
  intro k p h; cases h; exact cmdPacket_channel _ _ _

theorem getRemainingBytes (x0 : ChId) : Statement (.getRemainingBytes x0) := by
  intro k p h; cases h; exact cmdPacket_channel _ _ _

theorem fillNode (x0 : Kind) (x1 : NodeConfig) : Statement (.fillNode x0 x1) := by
  intro k p h; cases h; exact cmdPacket_channel _ _ _

theorem decodeNode (x0 : Node) : Statement (.decodeNode x0) := by
  intro k p h; cases h; exact cmdPacket_channel _ _ _

theorem convertToDynamic (x0 : Word) : Statement (.convertToDynamic x0) := by
  intro k p h; cases h; exact cmdPacket_channel _ _ _

theorem convertToStatic (x0 : Word) : Statement (.convertToStatic x0) := by
  intro k p h; cases h; exact cmdPacket_channel _ _ _

theorem updateDynamicQueueLinks (x0 : Word) : Statement (.updateDynamicQueueLinks x0) := by
  intro k p h; cases h; exact cmdPacket_channel _ _ _

theorem queueInit (x0 : Word) (x1 : Kind) : Statement (.queueInit x0 x1) := by
  intro k p h; cases h; exact cmdPacket_channel _ _ _

theorem queueInsert (x0 : Word) (x1 : Word) (x2 : Word) : Statement (.queueInsert x0 x1 x2) := by
  intro k p h; cases h; exact cmdPacket_channel _ _ _

theorem queueRemove (x0 : Word) (x1 : Word) : Statement (.queueRemove x0 x1) := by
  intro k p h; cases h; exact cmdPacket_channel _ _ _

theorem queueReplace (x0 : Word) (x1 : Word) (x2 : Word) : Statement (.queueReplace x0 x1 x2) := by
  intro k p h; cases h; exact cmdPacket_channel _ _ _

theorem queueSetCircular (x0 : Word) (x1 : Word) : Statement (.queueSetCircular x0 x1) := by
  intro k p h; cases h; exact cmdPacket_channel _ _ _

theorem queueClearCircular (x0 : Word) : Statement (.queueClearCircular x0) := by
  intro k p h; cases h; exact cmdPacket_channel _ _ _

theorem startDirectSilent (x0 : ChId) (x1 : Word) (x2 : Word) (x3 : Word) : Statement (.startDirectSilent x0 x1 x2 x3) := by
  intro k p h; cases h; exact cmdPacket_channel _ _ _

theorem startDirectIt (x0 : ChId) (x1 : Word) (x2 : Word) (x3 : Word) : Statement (.startDirectIt x0 x1 x2 x3) := by
  intro k p h; cases h; exact cmdPacket_channel _ _ _

theorem startDirectItOpt (x0 : ChId) (x1 : Word) (x2 : Word) (x3 : Word) (x4 : IntSet) : Statement (.startDirectItOpt x0 x1 x2 x3 x4) := by
  intro k p h; cases h; exact cmdPacket_channel _ _ _

theorem startLinkedListSilent (x0 : ChId) (x1 : Word) : Statement (.startLinkedListSilent x0 x1) := by
  intro k p h; cases h; exact cmdPacket_channel _ _ _

theorem startLinkedListIt (x0 : ChId) (x1 : Word) : Statement (.startLinkedListIt x0 x1) := by
  intro k p h; cases h; exact cmdPacket_channel _ _ _

theorem startLinkedListItOpt (x0 : ChId) (x1 : Word) (x2 : IntSet) : Statement (.startLinkedListItOpt x0 x1 x2) := by
  intro k p h; cases h; exact cmdPacket_channel _ _ _

theorem link (x0 : ChId) (x1 : BitVec 8) (x2 : BitVec 14) : Statement (.link x0 x1 x2) := by
  intro k p h; cases h; rfl

theorem linkEnd (x0 : ChId) : Statement (.linkEnd x0) := by
  intro k p h; cases h; rfl

theorem linkStaticLinear (x0 : ChId) (x1 : BitVec 14) : Statement (.linkStaticLinear x0 x1) := by
  intro k p h; cases h; rfl

theorem linkStaticTwoDimensional (x0 : ChId) (x1 : BitVec 14) : Statement (.linkStaticTwoDimensional x0 x1) := by
  intro k p h; cases h; rfl

theorem linkDynamic (x0 : ChId) (x1 : BitVec 7) (x2 : BitVec 14) : Statement (.linkDynamic x0 x1 x2) := by
  intro k p h; cases h; rfl

theorem nLinS (x0 : ChId) (x1 : BitVec 8) : Statement (.nLinS x0 x1) := by
  intro k p h; cases h; rfl

theorem n2dS (x0 : ChId) (x1 : BitVec 8) : Statement (.n2dS x0 x1) := by
  intro k p h; cases h; rfl

theorem nLinD (x0 : ChId) (x1 : BitVec 8) : Statement (.nLinD x0 x1) := by
  intro k p h; cases h; rfl

theorem n2dD (x0 : ChId) (x1 : BitVec 8) : Statement (.n2dD x0 x1) := by
  intro k p h; cases h; rfl

theorem regRead (x0 : ChId) (x1 : Reg) : Statement (.regRead x0 x1) := by
  intro k p h; cases h; rfl

theorem fieldWrite (x0 : ChId) (x1 : Fld) (x2 : Word) : Statement (.fieldWrite x0 x1 x2) := by
  intro k p h; cases h; rfl

theorem regWrite (x0 : ChId) (x1 : Reg) (x2 : Word) : Statement (.regWrite x0 x1 x2) := by
  intro k p h; cases h; rfl

theorem ctrlWordWrite (x0 : ChId) (x1 : Reg) (x2 : List (Fld × Word)) : Statement (.ctrlWordWrite x0 x1 x2) := by
  intro k p h; cases h; rfl

theorem flagClear (x0 : ChId) (x1 : FlagSet) : Statement (.flagClear x0 x1) := by
  intro k p h; cases h; rfl

theorem ieWrite (x0 : ChId) (x1 : FlagSet) : Statement (.ieWrite x0 x1) := by
  intro k p h; cases h; rfl

theorem ieSet (x0 : ChId) (x1 : FlagSet) : Statement (.ieSet x0 x1) := by
  intro k p h; cases h; rfl

theorem hwEnable (x0 : ChId) : Statement (.hwEnable x0) := by
  intro k p h; cases h; rfl

theorem status (x0 : ChId) : Statement (.status x0) := by
  intro k p h; cases h; rfl

theorem linkLoad (x0 : ChId) : Statement (.linkLoad x0) := by
  intro k p h; cases h

theorem hwSuspendReq (x0 : ChId) : Statement (.hwSuspendReq x0) := by
  intro k p h; cases h; rfl

theorem hwResume (x0 : ChId) : Statement (.hwResume x0) := by
  intro k p h; cases h; rfl

theorem hwReset (x0 : ChId) : Statement (.hwReset x0) := by
  intro k p h; cases h; rfl

theorem eStart (x0 : ChId) : Statement (.eStart x0) := by
  intro k p h; cases h

theorem eData (x0 : ChId) : Statement (.eData x0) := by
  intro k p h; cases h

theorem eBlockEnd (x0 : ChId) : Statement (.eBlockEnd x0) := by
  intro k p h; cases h

theorem eComplete (x0 : ChId) : Statement (.eComplete x0) := by
  intro k p h; cases h

theorem eLink (x0 : ChId) : Statement (.eLink x0) := by
  intro k p h; cases h

theorem eRaiseDte (x0 : ChId) : Statement (.eRaiseDte x0) := by
  intro k p h; cases h

theorem eRaiseUle (x0 : ChId) : Statement (.eRaiseUle x0) := by
  intro k p h; cases h

theorem eRaiseUse (x0 : ChId) : Statement (.eRaiseUse x0) := by
  intro k p h; cases h

theorem eRaiseTo (x0 : ChId) : Statement (.eRaiseTo x0) := by
  intro k p h; cases h

theorem eSuspAck (x0 : ChId) : Statement (.eSuspAck x0) := by
  intro k p h; cases h

theorem aGrant (x0 : ChId) : Statement (.aGrant x0) := by
  intro k p h; cases h

end Sys2Proof.Laws.PacketChannel
end

