-- ==== Sys2Proof/Laws/Run.lean ====
section
/-! SUPPORT. How a host context runs its operations: one operation after the other, and a whole command when its turn is
long enough (log 2). -/

namespace Sys2Proof.Machine

theorem runOps_nil (n : Nat) (s : State) : runOps n [] s = .next ([], s) := by cases n <;> rfl

/-- One operation that goes on. -/
theorem runOps_go {n : Nat} {op : HostOp} {rest ops : List HostOp} {s t : State} (h : runOp op s = .go ops t) :
    runOps (n + 1) (op :: rest) s = runOps n (ops ++ rest) t := by simp [runOps, h]

/-- One operation that lets the other agents move. -/
theorem runOps_yield {n : Nat} {op : HostOp} {rest ops : List HostOp} {s t : State} (h : runOp op s = .yield ops t) :
    runOps (n + 1) (op :: rest) s = .next (ops ++ rest, t) := by simp [runOps, h]

/-- One operation that ends its command early: its later operations are dropped. -/
theorem runOps_skip {n left : Nat} {op : HostOp} {rest ops : List HostOp} {s t : State}
    (h : runOp op s = .skip left ops t) : runOps (n + 1) (op :: rest) s = runOps n (ops ++ rest.drop left) t := by
  simp [runOps, h]

theorem runOps_fault {n : Nat} {op : HostOp} {rest : List HostOp} {s : State} {f : Fault}
    (h : runOp op s = .fault f) : runOps (n + 1) (op :: rest) s = .fault f := by simp [runOps, h]

theorem runOps_refused {n : Nat} {op : HostOp} {rest : List HostOp} {s : State} {r : Refusal}
    (h : runOp op s = .refused r) : runOps (n + 1) (op :: rest) s = .refused r := by simp [runOps, h]

/-- A run that has nothing left is the same in a longer turn. -/
theorem runOps_mono {n m : Nat} {ops : List HostOp} {s t : State} (h : runOps n ops s = .next ([], t)) (hm : n ≤ m) :
    runOps m ops s = .next ([], t) := by
  induction n generalizing m ops s with
  | zero =>
    simp only [runOps, Host.Outcome.next.injEq, Prod.mk.injEq] at h
    obtain ⟨rfl, rfl⟩ := h
    exact runOps_nil m s
  | succ n ih =>
    cases ops with
    | nil => rw [runOps_nil] at h ⊢; exact h
    | cons op rest =>
      obtain ⟨m, rfl⟩ : ∃ k, m = k + 1 := ⟨m - 1, by omega⟩
      cases hop : runOp op s with
      | go ops' s' =>
        rw [runOps_go hop] at h ⊢
        exact ih h (by omega)
      | yield ops' s' =>
        rw [runOps_yield hop] at h ⊢
        exact h
      | skip left ops' s' =>
        rw [runOps_skip hop] at h ⊢
        exact ih h (by omega)
      | fault f => rw [runOps_fault hop] at h; cases h
      | refused r => rw [runOps_refused hop] at h; cases h

/-- A command that finishes within its turn, with nothing left over from an earlier one. -/
theorem runHost_done {n : Nat} {ops : List HostOp} {s t : State} (hp : s.pending = []) (hq : n ≤ s.quantum)
    (h : runOps n ops s = .next ([], t)) (hi : t.isr = s.isr) (ha : t.app.todo = s.app.todo) :
    runHost ops s = .next t := by
  unfold runHost
  rw [hp, List.append_nil, runOps_mono h hq]
  cases hs : s.isr with
  | none =>
    have : s.app.todo = [] := by simpa [State.pending, hs] using hp
    rw [this] at ha
    cases t with
    | mk cfg chans mem tick queues nodeKinds app isr =>
      cases app
      simp_all [State.putPending]
  | some r =>
    have hr : r.todo = [] := by simpa [State.pending, hs] using hp
    rw [hs] at hi
    cases t with
    | mk cfg chans mem tick queues nodeKinds app isr =>
      cases r
      simp_all [State.putPending]

/-- A handler that returns within its turn. -/
theorem runHost_returned {n : Nat} {ops : List HostOp} {s t : State} (hp : s.pending = []) (hq : n ≤ s.quantum)
    (h : runOps n ops s = .next ([], t)) (hs : s.isr.isSome = true) (ht : t.isr = none) :
    runHost ops s = .next t := by
  unfold runHost
  rw [hp, List.append_nil, runOps_mono h hq]
  cases t with
  | mk cfg chans mem tick queues nodeKinds app isr => simp_all [State.putPending]

/-- A command whose operands are legal makes its tests of the handle, then its operations. -/
theorem command_run {g : Bool} {gs : List (Nat → HostOp)} {ops : List HostOp} {s : State} (h : g = true) :
    command g gs ops s = runHost (guarded gs ops) s := by simp [command, h]

/-- A command with an illegal operand is a violation. -/
theorem command_violation {g : Bool} {gs : List (Nat → HostOp)} {ops : List HostOp} {s : State} (h : g = false) :
    command g gs ops s = violation s := by simp [command, h]

/-- A command answers what its operations or a violation answer. -/
theorem command_cases (g : Bool) (gs : List (Nat → HostOp)) (ops : List HostOp) (s : State) :
    command g gs ops s = runHost (guarded gs ops) s ∨ command g gs ops s = violation s := by
  cases g <;> simp [command]

@[simp] theorem guarded_nil (ops : List HostOp) : guarded [] ops = ops := rfl

@[simp] theorem guarded_cons (g : Nat → HostOp) (gs : List (Nat → HostOp)) (ops : List HostOp) :
    guarded (g :: gs) ops = g (guarded gs ops).length :: guarded gs ops := rfl

/-! ## Tests of the handle (00_scope.md R11, 44_transfer_engine.md R287) -/

/-- A precondition that holds lets its command go on. -/
theorem runOp_require (i : Nat) (t : HandleTest) (left : Nat) (s : State) (h : handleTest t (s.chan i).h = true) :
    runOp (.require i t left) s = .go [] s := by simp [runOp, h]

/-- A precondition that fails ends its command as the build says. -/
theorem runOp_require_fails (i : Nat) (t : HandleTest) (left : Nat) (s : State)
    (h : handleTest t (s.chan i).h = false) :
    runOp (.require i t left) s = innerViolation (.skip left [.ret (plainReply .invalidParameter)] s) s := by
  simp [runOp, h]

/-- Everything a precondition can do: nothing, or a violation. -/
theorem runOp_require_cases (i : Nat) (t : HandleTest) (left : Nat) (s : State) :
    runOp (.require i t left) s = .go [] s
    ∨ runOp (.require i t left) s = innerViolation (.skip left [.ret (plainReply .invalidParameter)] s) s := by
  cases h : handleTest t (s.chan i).h
  · exact Or.inr (runOp_require_fails i t left s h)
  · exact Or.inl (runOp_require i t left s h)

theorem runOp_busyTest (i left : Nat) (s : State) :
    runOp (.busyTest i left) s =
      if (s.chan i).h.state = .active then .skip left [.ret (plainReply .busy)] s else .go [] s := rfl

theorem runOp_idleOverRunning (i : Nat) (s : State) :
    runOp (.idleOverRunning i) s =
      if (s.chan i).h.state = .idle ∧ (s.chan i).ccr.en then .refused .idleOverRunning else .go [] s := rfl

/-- A violation that goes on has changed nothing but the reply (00_scope.md R11). -/
theorem violation_next {s t : State} (h : violation s = .next t) :
    s.cfg.build = .checked ∧ t = s.answer (plainReply .invalidParameter) := by
  unfold violation at h
  cases hb : s.cfg.build <;> simp_all

/-- A host write to a register of a disabled channel. -/
theorem runOp_regWrite (i : Nat) (r : Reg) (w : Word) (s : State) (h : (s.chan i).ccr.en = false) :
    runOp (.regWrite i r w) s = .go [] (s.onChan i (writeReg s.cfg r w)) := by simp [runOp, hostRegWrite, h]

/-- A host write to a link register of an enabled channel is refused (93_implementation_defined.md U3). -/
theorem runOp_regWrite_enabled (i : Nat) (r : Reg) (w : Word) (s : State) (h : (s.chan i).ccr.en = true)
    (hr : isLinkReg r = true) : runOp (.regWrite i r w) s = .refused .linkWriteWhileEnabled := by
  simp [runOp, hostRegWrite, h, hr]

theorem runOp_rmw (i : Nat) (r : Reg) (fs : List (Fld × Word)) (s : State) :
    runOp (.rmw i r fs) s = .go [.regWrite i r (insFields s.cfg.layout fs (readReg s.cfg (s.chan i) r))] s := rfl

theorem runOp_ret (r : Reply) (s : State) : runOp (.ret r) s = .go [] (s.answer r) := rfl

/-- A getter that reads one register more. -/
theorem runOp_collect_cons (i : Nat) (r : Reg) (rest : List Reg) (got : List Word) (g : Getter) (s : State) :
    runOp (.collect i (r :: rest) got g) s
      = .go [.collect i rest (got ++ [readReg s.cfg (s.chan i) r]) g] s := rfl

/-- A getter that has read its registers. -/
theorem runOp_collect_nil (i : Nat) (got : List Word) (g : Getter) (s : State) :
    runOp (.collect i [] got g) s = .go [.ret ⟨.ok, getterValue s.cfg.layout g got (s.chan i).h.blockSize⟩] s := rfl

end Sys2Proof.Machine
end

