-- ==== Sys2Proof/Tests/Slice0.lean ====
section
/-! SUPPORT. The author's own tests: ill-formed terms that `WellFormed` refuses, words written out from the spec's
encodings, one step of every instruction with the values of 95_test_vectors.md or hand calculation from the rules, and
one witness for the hypotheses of every statement. -/

namespace Sys2Proof.Tests

-- one theorem after the other: each waits for the kernel, and a thread for each would need too much memory
set_option Elab.async false

open Sys2Proof.Machine Sys2Proof.Claims Sys2Proof.Safety

/-! ## Helpers -/

/-- CCR from its word (30_encoding.md R115). -/
def ccrOf (w : Word) : Ccr :=
  ⟨Fld.en.test Layout.u5 w, Fld.susp.test Layout.u5 w, FlagSet.ofEnables Layout.u5 w, Fld.prio.get Layout.u5 w⟩

/-- CSR from its word (30_encoding.md R115). -/
def csrOf (w : Word) : Csr := ⟨Fld.idle.test Layout.u5 w, FlagSet.ofWord Layout.u5 w⟩

/-- Two channels after power-on, the first linear, the second 2-D. -/
def two : State := State.powerOn Cfg.default [false, true]

/-- `two` with channel `i` changed. -/
def on (i : Nat) (f : Channel → Channel) : State := two.onChan i f

/-- A channel in a life-cycle state, with CCR and CSR from their words. -/
def chan (l : Life) (ccr csr : Word) (c : Channel) : Channel :=
  { c with ccr := ccrOf ccr, csr := csrOf csr, h := { c.h with state := l } }

/-- The configuration of vector B5.2: word to word, both sides incremented, memory to memory. -/
def words (c : Channel) : Channel := { c with ctr1 := 0x000A000A, ctr2 := 0x00000200 }

/-- A disabled channel in `Idle` with that configuration. -/
def idle (c : Channel) : Channel := chan .idle 0 1 (words c)

/-- A running channel in `Active` with that configuration and both addresses set. -/
def running (ccr csr bndt : Word) (c : Channel) : Channel :=
  { chan .active ccr csr (words c) with
    cbr1 := bndt
    csar := 0x1000
    cdar := 0x2000
    hid := { Hidden.zero with unitTotal := bndt.toNat, sbLeft := 4, dbLeft := 4, blkReload := bndt.setWidth 16 } }

/-- The answer of a command and the state behind it. -/
def gives (o : Out) (r : Result) (p : State → Bool) : Bool :=
  match o with
  | .next t => t.app.reply == some (plainReply r) && p t
  | _ => false

/-- The value that a command returns with `Ok`. -/
def returns (o : Out) (v : Value) : Bool :=
  match o with
  | .next t => t.app.reply == some ⟨.ok, v⟩
  | _ => false

/-- The state behind an engine step or the handler. -/
def moves (o : Out) (p : State → Bool) : Bool :=
  match o with
  | .next t => p t
  | _ => false

/-- A register as the bus reads it. -/
def reg (t : State) (i : Nat) (r : Reg) : Word := readReg t.cfg (t.chan i) r

/-- Words at an address. -/
def mem (t : State) (a : Word) (n : Nat) : List Word := (List.range n).map fun k => readWord t.mem (wordAddr a k)

/-- The linear node of vector B4.1 with a destination, a size and a link word. -/
def node (dst size link : Word) : List Word := [0x000A000A, 0x00000200, size, 0x20001000, dst, link]

/-- Two static nodes at 0x20000100 and 0x20000120, of one source, size 64. -/
def twoNodes : Memory :=
  writeWords (writeWords [] 0x20000100 (node 0x20002000 64 0xF8010120)) 0x20000120 (node 0x20002040 64 0)

/-- The static queue of those nodes. -/
def twoQueue : Queue := ⟨.linear, .static, [⟨0x20000100, 0x9F⟩, ⟨0x20000120, 0x9F⟩], none⟩

/-- A state with the queue under the name 7. -/
def queued (v : Queue) : State := { two with mem := twoNodes, queues := [(7, v)] }

/-- The compact form of that queue (42_queue.md R206): node 1 keeps CSAR, CDAR and the link word. -/
def compactState : State :=
  { two with
    mem := writeWords (writeWords [] 0x20000100 (node 0x20002000 64 0x18010120)) 0x20000120 [0x20001000, 0x20002040, 0]
    queues := [(7, ⟨.linear, .dynamic, [⟨0x20000100, 0x9F⟩, ⟨0x20000120, 0x98⟩], none⟩)] }

/-- A channel about to take a link step through a link word, its window at 0x20000000. -/
def linking (w : Word) (c : Channel) : Channel :=
  { chan .active 1 0 c with cllr := w, lba := 0x2000, hid := { Hidden.zero with linkPending := true } }

def config (rb : Option RepeatBlock) : NodeConfig where
  request := 0
  direction := .memToMem
  srcInc := .incremented
  dstInc := .incremented
  srcWidth := .word
  dstWidth := .word
  hwMode := .burst
  srcPort := .port0
  dstPort := .port0
  srcBurstLen := 1
  dstBurstLen := 1
  trigger := ⟨0, .none, .block⟩
  data := ⟨false, false, false, 0⟩
  srcSec := false
  dstSec := false
  srcAddr := 0x20001000
  dstAddr := 0x20002000
  size := 64
  rb := rb

def direct : DirectConfig := ⟨0, .memToMem, .incremented, .incremented, .word, .word, 3⟩

def repeats : RepeatBlock := ⟨4, 8, .add, 0, .add, 64, .add, 128, .subtract⟩

/-! ## WellFormed: an ill-formed term for each check -/

theorem test_wf_linear_with_repeat_block : (Instr.fillNode .linear (config (some repeats))).wf Cfg.default = false := by decide
theorem test_wf_two_d_without_repeat_block : (Instr.fillNode .twoDimensional (config none)).wf Cfg.default = false := by decide
theorem test_wf_link_with_u_cllr : (Instr.link 0 0x98 5).wf Cfg.default = false := by decide
theorem test_wf_link_that_is_the_end : (Instr.link 0 0 0).wf Cfg.default = false := by decide
theorem test_wf_dynamic_equal_to_static : (Instr.linkDynamic 0 0x1F 5).wf Cfg.default = false ∧
    (Instr.linkDynamic 0 0x7F 5).wf Cfg.default = false := by decide
theorem test_wf_node_formats : (Instr.nLinS 0 0x98).wf Cfg.default = false ∧ (Instr.n2dS 0 0x9F).wf Cfg.default = false ∧
    (Instr.nLinD 0 0x9F).wf Cfg.default = false ∧ (Instr.nLinD 0 0xB8).wf Cfg.default = false ∧
    (Instr.n2dD 0 0xFF).wf Cfg.default = false ∧ (Instr.n2dD 0 0x98).wf Cfg.default = false := by decide

/-- With 7-word 2-D nodes without CTR3 the static mask is 0xDF (90_conflicts.md C1; log 42). -/
theorem test_wf_seven_word_nodes : let k := { Cfg.default with nodeRegs2d := 0xDF }
    k.wf = true ∧ (Instr.n2dS 0 0xDF).wf k = true ∧ (Instr.n2dD 0 0xDF).wf k = false ∧
    nodeWords k .twoDimensional = 7 := by decide +kernel

/-- Parameters: the default is well formed; two fields on one bit, a field beyond bit 31, an update bit in the address
part and a 2-D node without CSAR are not (30_encoding.md R114). -/
theorem test_cfg_wf : State.reset.cfg.wf = true ∧
    ({ Layout.u5 with srcInc := 2 } : Layout).wf = true ∧ ({ Layout.u5 with srcInc := 1 } : Layout).wf = false ∧
    ({ Layout.u5 with brc := 22 } : Layout).wf = false ∧ ({ Layout.u5 with uCtr1 := 1 } : Layout).wf = false ∧
    ({ Cfg.default with nodeRegs2d := 0xF7 } : Cfg).wf = false := by decide +kernel
theorem test_wf_reg_write_of_cfcr : (Instr.regWrite 0 .cfcr 0).wf Cfg.default = false := by decide
theorem test_wf_ctrl_word_one_field : (Instr.ctrlWordWrite 0 .ctr1 [(.srcInc, 1)]).wf Cfg.default = false := by decide
theorem test_wf_ctrl_word_other_register :
    (Instr.ctrlWordWrite 0 .ctr1 [(.srcInc, 1), (.swReq, 1)]).wf Cfg.default = false := by decide
theorem test_wf_ctrl_word_repeated_field :
    (Instr.ctrlWordWrite 0 .ctr1 [(.srcInc, 1), (.srcInc, 0)]).wf Cfg.default = false := by decide

/-! ## Words written out from the encodings (30_encoding.md R104, R105, R115, R117, R118) -/

def reads (l : List (Packet × Instr)) : Bool := l.all fun p => decide (decode Cfg.default p.1 = .ok p.2)

theorem test_decode_life_cycle_and_modes : reads
    [(.cmd 0x0300 [], .init 3), (.cmd 0xFF01 [], .deinit 255),
     (.cmd 0x0102 [0, 0, 1, 1, 2, 2, 3], .setConfigDirect 1 direct), (.cmd 0x0103 [], .getConfigDirect 1),
     (.cmd 0x0104 [2], .setConfigLinkedList 1 2), (.cmd 0x0105 [], .getConfigLinkedList 1),
     (.cmd 0x0108 [1], .setHwRequestMode 1 .block), (.cmd 0x0109 [], .resetHwRequestMode 1),
     (.cmd 0x010A [], .getHwRequestMode 1)] = true := by decide +kernel

theorem test_decode_setters : reads
    [(.cmd 0x020B [1, 0], .setPort 2 .port1 .port0), (.cmd 0x020C [], .resetPort 2), (.cmd 0x020D [], .getPort 2),
     (.cmd 0x020E [16, 4], .setBurst 2 16 4), (.cmd 0x020F [], .resetBurst 2), (.cmd 0x0210 [], .getBurst 2),
     (.cmd 0x0211 [3, 1, 2], .setTrigger 2 ⟨3, .rising, .node⟩), (.cmd 0x0212 [], .resetTrigger 2),
     (.cmd 0x0213 [], .getTrigger 2), (.cmd 0x0214 [1, 0, 1, 2], .setDataHandling 2 ⟨true, false, true, 2⟩),
     (.cmd 0x0215 [], .resetDataHandling 2), (.cmd 0x0216 [], .getDataHandling 2),
     (.cmd 0x0217 [4, 8, 0, 0, 0, 64, 0, 128, 1], .setRepeatBlock 2 repeats), (.cmd 0x0218 [], .resetRepeatBlock 2),
     (.cmd 0x0219 [], .getRepeatBlock 2), (.cmd 0x021A [1, 0, 1, 0], .setSecurity 2 ⟨true, false, true, false⟩),
     (.cmd 0x021B [], .resetSecurity 2), (.cmd 0x021C [], .getSecurity 2),
     (.cmd 0x021D [4, 9], .registerCallback 2 .error 9), (.cmd 0x021E [0xCAFE0001], .setUserData 2 0xCAFE0001),
     (.cmd 0x021F [], .getUserData 2)] = true := by decide +kernel

theorem test_decode_transfers : reads
    [(.cmd 0x0320 [0x1000, 0x2000, 64, 4], .startDirect 3 0x1000 0x2000 64 .default),
     (.cmd 0x0321 [7, 3], .startLinkedList 3 7 .timeoutOnly), (.cmd 0x0322 [], .suspend 3),
     (.cmd 0x0323 [], .suspendIt 3), (.cmd 0x0324 [], .resume 3), (.cmd 0x0325 [], .abort 3),
     (.cmd 0x0326 [], .abortIt 3), (.cmd 0x0327 [1, 100], .pollForTransfer 3 .fullComplete 100),
     (.cmd 0x0F28 [], .irqHandler 15), (.cmd 0x0329 [], .getState 3), (.cmd 0x032A [], .getLastError 3),
     (.cmd 0x032B [], .getRemainingBytes 3)] = true := by decide +kernel

theorem test_decode_nodes_and_queues : reads
    [(.cmd 0x0030 [0, 0, 0, 1, 1, 2, 2, 0, 0, 0, 1, 1, 0, 0, 0, 0, 0, 0, 0, 0, 0, 0x20001000, 0x20002000, 64],
      .fillNode .linear (config none)),
     (.cmd 0x0030 [1, 0, 0, 1, 1, 2, 2, 0, 0, 0, 1, 1, 0, 0, 0, 0, 0, 0, 0, 0, 0, 0x20001000, 0x20002000, 64,
      4, 8, 0, 0, 0, 64, 0, 128, 1], .fillNode .twoDimensional (config (some repeats))),
     (.cmd 0x0031 [0, 1, 2, 3, 4, 5, 6], .decodeNode (.linear 1 2 3 4 5 6)),
     (.cmd 0x0031 [1, 1, 2, 3, 4, 5, 6, 7, 8], .decodeNode (.twoDimensional 1 2 3 4 5 6 7 8)),
     (.cmd 0x0032 [7], .convertToDynamic 7), (.cmd 0x0033 [7], .convertToStatic 7),
     (.cmd 0x0034 [7], .updateDynamicQueueLinks 7), (.cmd 0x0035 [7, 1], .queueInit 7 .twoDimensional),
     (.cmd 0x0036 [7, 0, 0x20000100], .queueInsert 7 0 0x20000100), (.cmd 0x0037 [7, 1], .queueRemove 7 1),
     (.cmd 0x0038 [7, 1, 0x20000120], .queueReplace 7 1 0x20000120), (.cmd 0x0039 [7, 1], .queueSetCircular 7 1),
     (.cmd 0x003A [7], .queueClearCircular 7)] = true := by decide +kernel

theorem test_decode_link_words : reads
    [(.linkWord 0 0x00000000, .linkEnd 0), (.linkWord 0 0xF8010120, .linkStaticLinear 0 0x48),
     (.linkWord 12 0xFE01FFE0, .linkStaticTwoDimensional 12 0x3FF8), (.linkWord 0 0x18010140, .linkDynamic 0 0x18 0x50),
     (.linkWord 0 0x10010120, .linkDynamic 0 0x08 0x48), (.linkWord 0 0x98010120, .linkDynamic 0 0x19 0x48),
     (.linkWord 0 0x00000100, .link 0 0 0x40), (.linkWord 12 0xFE00FFFC, .link 12 0x7F 0x3FFF)] = true := by
  decide +kernel

theorem test_decode_node_formats : reads
    [(.node 0 0x9F, .nLinS 0 0x9F), (.node 12 0xFF, .n2dS 12 0xFF), (.node 0 0x98, .nLinD 0 0x98),
     (.node 0 0x00, .nLinD 0 0x00), (.node 12 0x20, .n2dD 12 0x20), (.node 12 0x40, .n2dD 12 0x40)] = true := by
  decide +kernel

theorem test_decode_bus : reads
    [(.bus 1 .csr .read, .regRead 1 .csr), (.bus 1 .csr .status, .status 1),
     (.bus 1 .csar (.write 0x20001000), .regWrite 1 .csar 0x20001000),
     (.bus 1 .ctr1 (.fields [(.srcBurst, 15)]), .fieldWrite 1 .srcBurst 15),
     (.bus 1 .ctr1 (.fields [(.srcWidth, 2), (.srcInc, 1)]), .ctrlWordWrite 1 .ctr1 [(.srcWidth, 2), (.srcInc, 1)]),
     (.bus 1 .cfcr (.fields [(.ctc, 1)]), .fieldWrite 1 .ctc 1),
     (.bus 1 .cfcr (.fields [(.ctc, 1), (.cht, 1)]), .ctrlWordWrite 1 .cfcr [(.ctc, 1), (.cht, 1)]),
     (.bus 1 .cfcr (.write 0x00000300), .flagClear 1 ⟨true, true, false, false, false, false, false⟩),
     (.bus 1 .cfcr (.write 0x00007F00), .flagClear 1 ⟨true, true, true, true, true, true, true⟩),
     (.bus 1 .ccr (.bits 0x00007F00 0x00001D00), .ieWrite 1 ⟨false, true, false, true, true, true, false⟩),
     (.bus 1 .ccr (.orBits 0x00002000), .ieSet 1 ⟨false, false, true, false, false, false, false⟩),
     (.bus 1 .ccr (.bits 1 1), .hwEnable 1), (.bus 1 .ccr (.bits 2 2), .hwReset 1),
     (.bus 1 .ccr (.bits 4 4), .hwSuspendReq 1), (.bus 1 .ccr (.bits 4 0), .hwResume 1)] = true := by decide +kernel

/-- A pseudo-command's words are those of its expansion (30_encoding.md R128). -/
theorem test_pseudo_commands_encode :
    encode Cfg.default (.startDirectSilent 3 0x1000 0x2000 64) = some (.cmd 0x0320 [0x1000, 0x2000, 64, 0]) ∧
    encode Cfg.default (.startDirectIt 3 0x1000 0x2000 64) = some (.cmd 0x0320 [0x1000, 0x2000, 64, 4]) ∧
    encode Cfg.default (.startDirectItOpt 3 0x1000 0x2000 64 .none) = some (.cmd 0x0320 [0x1000, 0x2000, 64, 1]) ∧
    encode Cfg.default (.startLinkedListSilent 3 7) = some (.cmd 0x0321 [7, 0]) ∧
    encode Cfg.default (.startLinkedListIt 3 7) = some (.cmd 0x0321 [7, 4]) ∧
    encode Cfg.default (.startLinkedListItOpt 3 7 .halfComplete) = some (.cmd 0x0321 [7, 2]) := by decide +kernel

/-- The table gives the engine's steps and `link_load` no bits. -/
theorem test_engine_rows_have_no_word :
    [Instr.linkLoad 0, .eStart 0, .eData 0, .eBlockEnd 0, .eComplete 0, .eLink 0, .eRaiseDte 0, .eRaiseUle 0,
      .eRaiseUse 0, .eRaiseTo 0, .eSuspAck 0, .aGrant 0].all (fun i => (encode Cfg.default i).isNone) = true := by decide

theorem test_decode_refuses :
    decode Cfg.default (.cmd 0x0006 []) = .error .unassigned ∧ decode Cfg.default (.cmd 0x0040 []) = .error .reservedBits ∧
    decode Cfg.default (.cmd 0x0135 [7, 0]) = .error .channelField ∧ decode Cfg.default (.cmd 0x0020 [0x1000]) = .error .missingArgument ∧
    decode Cfg.default (.cmd 0x0008 [2]) = .error .badEnum ∧ decode Cfg.default (.bus 0 .csar (.bits 1 1)) = .error .badBusAccess ∧
    decode Cfg.default (.bus 0 .csr (.orBits 1)) = .error .badBusAccess := by decide +kernel

/-- A link word with a bit outside its fields is a plain write of CLLR (log 28). -/
theorem test_decode_link_word_other_bits :
    decode Cfg.default (.linkWord 0 0xF8030120) = .ok (.regWrite 0 .cllr 0xF8030120) := by decide +kernel

/-- Rows of spec/opcode_table.json, read from their bits alone. -/
theorem test_table_words :
    decodeTableWord 8 0x22 = some (.suspend 0) ∧
    decodeTableWord 16 0x0020 = some (.startDirect 0 0 0 0 .silent) ∧
    decodeTableWord 32 0xF8010000 = some (.linkStaticLinear 0 0) ∧
    decodeTableWord 32 0x4 = some (.hwSuspendReq 0) ∧
    decodeTableWord 32 0x7F00 = some (.flagClear 0 ⟨true, true, true, true, true, true, true⟩) := by decide +kernel

theorem test_placed_word_runs : gives (step (State.reset.withFetchWord 16 0x0500)) .ok
    (fun t => (t.chan 5).h.state == .init) = true := by decide +kernel

/-! ## Configuration commands (95_test_vectors.md B5) -/

theorem test_init : gives (exec (.init 0) two) .ok (fun t => (t.chan 0).h.state == .init) = true := by decide +kernel
theorem test_init_twice : gives (exec (.init 0) (on 0 (chan .init 0 1))) .invalidParameter
    (fun t => (t.chan 0).h.state == .init) = true := by decide +kernel
theorem test_deinit : gives (exec (.deinit 0) (on 0 (running 0x00805F01 0x200 64))) .ok
    (fun t => t.chan 0 == Channel.powerOn false) = true := by decide +kernel
theorem test_set_config_direct : gives (exec (.setConfigDirect 0 direct) (on 0 (chan .init 0 1))) .ok (fun t =>
    reg t 0 .ctr1 == 0x000A000A && reg t 0 .ctr2 == 0x00000200 && reg t 0 .ccr == 0x00C00000 &&
    (t.chan 0).h.state == .idle) = true := by decide +kernel
theorem test_set_config_direct_priority_4 : gives
    (exec (.setConfigDirect 0 { direct with priority := 4 }) (on 0 (chan .init 0 1))) .invalidParameter
    (fun t => reg t 0 .ctr1 == 0) = true := by decide +kernel
theorem test_get_config_direct : returns (exec (.getConfigDirect 0) (on 0 fun c => chan .idle 0x00C00000 1 (words c)))
    (.directConfig direct) = true := by decide +kernel
theorem test_set_config_linked_list : gives (exec (.setConfigLinkedList 0 2) (on 0 (chan .init 0 1))) .ok (fun t =>
    reg t 0 .ccr == 0x00800000 && (t.chan 0).h.mode == .linkedListLinear) = true := by decide +kernel
theorem test_get_config_linked_list : returns (exec (.getConfigLinkedList 0) (on 0 (chan .idle 0x00800000 1)))
    (.priority 2) = true := by decide +kernel
theorem test_set_hw_request_mode : gives (exec (.setHwRequestMode 0 .block) (on 0 idle)) .ok
    (fun t => reg t 0 .ctr2 == 0x00000A00) = true := by decide +kernel
theorem test_reset_hw_request_mode : gives
    (exec (.resetHwRequestMode 0) (on 0 fun c => { idle c with ctr2 := 0xA00 })) .ok
    (fun t => reg t 0 .ctr2 == 0x00000200) = true := by decide +kernel
theorem test_get_hw_request_mode : returns
    (exec (.getHwRequestMode 0) (on 0 fun c => { idle c with ctr2 := 0xA00 })) (.hwMode .block) = true := by
  decide +kernel
theorem test_set_port : gives (exec (.setPort 0 .port1 .port0) (on 0 idle)) .ok
    (fun t => reg t 0 .ctr1 == 0x000A400A) = true := by decide +kernel
theorem test_reset_port : gives (exec (.resetPort 0) (on 0 fun c => { idle c with ctr1 := 0x400A400A })) .ok
    (fun t => reg t 0 .ctr1 == 0x000A000A) = true := by decide +kernel
theorem test_get_port : returns (exec (.getPort 0) (on 0 fun c => { idle c with ctr1 := 0x4000 }))
    (.port .port1 .port0) = true := by decide +kernel
theorem test_set_burst : gives (exec (.setBurst 0 16 4) (on 0 idle)) .ok
    (fun t => reg t 0 .ctr1 == 0x003A00FA) = true := by decide +kernel
theorem test_set_burst_65 : gives (exec (.setBurst 0 65 1) (on 0 idle)) .invalidParameter
    (fun t => reg t 0 .ctr1 == 0x000A000A) = true := by decide +kernel
theorem test_reset_burst : gives (exec (.resetBurst 0) (on 0 fun c => { idle c with ctr1 := 0x003A00FA })) .ok
    (fun t => reg t 0 .ctr1 == 0x000A000A) = true := by decide +kernel
theorem test_get_burst : returns (exec (.getBurst 0) (on 0 fun c => { idle c with ctr1 := 0x003A00FA }))
    (.burst 16 4) = true := by decide +kernel
theorem test_set_trigger : gives (exec (.setTrigger 0 ⟨3, .rising, .block⟩) (on 0 idle)) .ok
    (fun t => reg t 0 .ctr2 == 0x01030200) = true := by decide +kernel
theorem test_reset_trigger : gives (exec (.resetTrigger 0) (on 0 fun c => { idle c with ctr2 := 0x0103C200 })) .ok
    (fun t => reg t 0 .ctr2 == 0x00000200) = true := by decide +kernel
theorem test_get_trigger : returns (exec (.getTrigger 0) (on 0 fun c => { idle c with ctr2 := 0x02038200 }))
    (.trigger ⟨3, .falling, .node⟩) = true := by decide +kernel
theorem test_set_data_handling : gives (exec (.setDataHandling 0 ⟨false, false, true, 0⟩) (on 0 idle)) .ok
    (fun t => reg t 0 .ctr1 == 0x080A000A) = true := by decide +kernel
theorem test_reset_data_handling : gives
    (exec (.resetDataHandling 0) (on 0 fun c => { idle c with ctr1 := 0x0C0A380A })) .ok
    (fun t => reg t 0 .ctr1 == 0x000A000A) = true := by decide +kernel
theorem test_get_data_handling : returns (exec (.getDataHandling 0) (on 0 fun c => { idle c with ctr1 := 0x04001000 }))
    (.dataHandling ⟨false, true, false, 2⟩) = true := by decide +kernel
theorem test_set_repeat_block : gives (exec (.setRepeatBlock 1 repeats) (on 1 idle)) .ok (fun t =>
    reg t 1 .cbr1 == 0x80030000 && reg t 1 .ctr3 == 8 && reg t 1 .cbr2 == 0x00800040) = true := by decide +kernel
theorem test_set_repeat_block_on_linear : gives (exec (.setRepeatBlock 0 repeats) (on 0 idle)) .invalidParameter
    (fun t => reg t 0 .cbr1 == 0) = true := by decide +kernel
theorem test_reset_repeat_block : gives
    (exec (.resetRepeatBlock 1) (on 1 fun c => { idle c with cbr1 := 0xF0030020, ctr3 := 8, cbr2 := 0x00800040 })) .ok
    (fun t => reg t 1 .cbr1 == 0x20 && reg t 1 .ctr3 == 0 && reg t 1 .cbr2 == 0) = true := by decide +kernel
theorem test_get_repeat_block : returns
    (exec (.getRepeatBlock 1) (on 1 fun c => { idle c with cbr1 := 0x80030000, ctr3 := 8, cbr2 := 0x00800040 }))
    (.repeatBlock repeats) = true := by decide +kernel
theorem test_set_security : gives (exec (.setSecurity 0 ⟨true, false, true, true⟩) (on 0 idle)) .ok
    (fun t => reg t 0 .ctr1 == 0x800A800A && reg t 0 .secAttr == 1) = true := by decide +kernel
theorem test_reset_security : gives
    (exec (.resetSecurity 0) (on 0 fun c => { idle c with ctr1 := 0x800A800A, secAttr := ⟨true, true⟩ })) .ok
    (fun t => reg t 0 .ctr1 == 0x000A000A && reg t 0 .secAttr == 0) = true := by decide +kernel
theorem test_get_security : returns
    (exec (.getSecurity 0) (on 0 fun c => { idle c with ctr1 := 0x80000000, secAttr := ⟨false, true⟩ }))
    (.security ⟨false, true, false, true⟩) = true := by decide +kernel
theorem test_register_callback : gives (exec (.registerCallback 0 .complete 9) (on 0 idle)) .ok
    (fun t => (t.chan 0).h.cb == ⟨0, 9, 0, 0, 0⟩) = true := by decide +kernel
theorem test_register_callback_active : gives (exec (.registerCallback 0 .complete 9) (on 0 (running 1 0 8)))
    .invalidParameter (fun t => (t.chan 0).h.cb == Callbacks.noop) = true := by decide +kernel
theorem test_set_user_data : gives (exec (.setUserData 0 0xCAFE0001) (on 0 idle)) .ok
    (fun t => (t.chan 0).h.userData == 0xCAFE0001) = true := by decide +kernel
theorem test_get_user_data : returns
    (exec (.getUserData 0) (on 0 fun c => { c with h := { c.h with state := .active, userData := 0xCAFE0001 } }))
    (.word 0xCAFE0001) = true := by decide +kernel
theorem test_get_state : returns (exec (.getState 0) two) (.life .reset) = true := by decide +kernel
theorem test_get_last_error : returns
    (exec (.getLastError 0) (on 0 fun c => { c with h := { c.h with state := .idle, lastError := 4 } }))
    (.lastError 4) = true := by decide +kernel
theorem test_get_remaining_bytes : returns
    (exec (.getRemainingBytes 1) (on 1 fun c =>
      { c with cbr1 := 0x00030020, h := { c.h with state := .active, blockSize := 32 } }))
    (.word 128) = true := by decide +kernel

/-! ## Transfer commands (95_test_vectors.md B6) and the handler (B9) -/

/-- What B6.1 says of a start, but for CCR. -/
def startedOk (t : State) (ccr : Word) : Bool :=
  reg t 0 .csar == 0x1000 && reg t 0 .cdar == 0x2000 && reg t 0 .cbr1 == 0x40 && reg t 0 .csr == 0 &&
    reg t 0 .ccr == ccr && (t.chan 0).h.state == .active && (t.chan 0).h.blockSize == 64 &&
    (t.chan 0).hid.unitTotal == 64

theorem test_start_direct : gives (exec (.startDirect 0 0x1000 0x2000 64 .default) (on 0 idle)) .ok
    (fun t => startedOk t 0x5F01) = true := by decide +kernel
theorem test_start_direct_size_6 : gives (exec (.startDirect 0 0x1000 0x2000 6 .default) (on 0 idle)) .ok
    (fun t => reg t 0 .csr == 0x1001 && reg t 0 .ccr == 0x5F00 && (t.chan 0).h.state == .active) = true := by
  decide +kernel
theorem test_start_direct_silent : gives (exec (.startDirectSilent 0 0x1000 0x2000 64) (on 0 idle)) .ok
    (fun t => startedOk t 0x0001) = true := by decide +kernel
theorem test_start_direct_it : gives (exec (.startDirectIt 0 0x1000 0x2000 64) (on 0 idle)) .ok
    (fun t => startedOk t 0x5F01) = true := by decide +kernel
theorem test_start_direct_it_opt : gives (exec (.startDirectItOpt 0 0x1000 0x2000 64 .none) (on 0 idle)) .ok
    (fun t => startedOk t 0x1D01) = true := by decide +kernel

/-- A linked-list channel in `Idle` with priority 2, and the queue of two nodes (program P2). -/
def listReady (v : Queue) : State :=
  (queued v).onChan 0 fun c => { chan .idle 0x00800000 1 c with h := { c.h with state := .idle, mode := .linkedListLinear } }

/-- What P2 says after command 8, but for CCR. -/
def listOk (t : State) (ccr : Word) (m : Mode) : Bool :=
  reg t 0 .cllr == 0xF8010100 && reg t 0 .clbar == 0x20000000 && reg t 0 .ccr == ccr && reg t 0 .csr == 0 &&
    (t.chan 0).hid.linkPending && (t.chan 0).h.head == some 0x20000100 && (t.chan 0).h.mode == m

theorem test_start_linked_list : gives (exec (.startLinkedList 0 7 .default) (listReady twoQueue)) .ok
    (fun t => listOk t 0x00805F01 .linkedListLinear) = true := by decide +kernel
theorem test_start_linked_list_silent : gives (exec (.startLinkedListSilent 0 7) (listReady twoQueue)) .ok
    (fun t => listOk t 0x00800001 .linkedListLinear) = true := by decide +kernel
theorem test_start_linked_list_it : gives (exec (.startLinkedListIt 0 7) (listReady twoQueue)) .ok
    (fun t => listOk t 0x00805F01 .linkedListLinear) = true := by decide +kernel
theorem test_start_linked_list_it_opt : gives
    (exec (.startLinkedListItOpt 0 7 .none) (listReady { twoQueue with fc := some 0x20000100 })) .ok
    (fun t => listOk t 0x00801D01 .linkedListCircular) = true := by decide +kernel
theorem test_suspend : gives (exec (.suspend 0) (on 0 (running 0x1 0x2000 8))) .ok
    (fun t => reg t 0 .ccr == 0x5 && (t.chan 0).h.state == .suspend) = true := by decide +kernel
theorem test_suspend_it : gives (exec (.suspendIt 0) (on 0 (running 0x1D01 0 8))) .ok
    (fun t => reg t 0 .ccr == 0x3D05 && (t.chan 0).h.state == .active) = true := by decide +kernel
theorem test_resume : gives (exec (.resume 0) (on 0 fun c =>
      { running 0x3D05 0x2200 8 c with h := { c.h with state := .suspend } })) .ok
    (fun t => reg t 0 .ccr == 0x3D01 && reg t 0 .csr == 0x200 && (t.chan 0).h.state == .active) = true := by
  decide +kernel
theorem test_resume_active : gives (exec (.resume 0) (on 0 (running 0x3D01 0x200 8))) .invalidParameter
    (fun t => reg t 0 .ccr == 0x3D01) = true := by decide +kernel
theorem test_abort_idle : gives (exec (.abort 0) (on 0 idle)) .error (fun t => t.chan 0 == (on 0 idle).chan 0) = true := by
  decide +kernel
theorem test_abort_suspended : gives (exec (.abort 0) (on 0 (running 0x1D01 0x2200 8))) .ok
    (fun t => reg t 0 .ccr == 0x1D00 && reg t 0 .csr == 1 && (t.chan 0).h.state == .idle) = true := by decide +kernel
theorem test_abort_it : gives (exec (.abortIt 0) (on 0 (running 0x1D01 0x300 8))) .ok
    (fun t => reg t 0 .ccr == 0x3D05 && (t.chan 0).h.state == .abort) = true := by decide +kernel
theorem test_poll_full : gives (exec (.pollForTransfer 0 .fullComplete 100) (on 0 (running 0x0 0x301 8))) .ok
    (fun t => reg t 0 .csr == 1 && (t.chan 0).h.state == .idle) = true := by decide +kernel
theorem test_poll_error_wins : gives (exec (.pollForTransfer 0 .fullComplete 10) (on 0 (running 0x0 0x0701 8))) .error
    (fun t => reg t 0 .csr == 1 && (t.chan 0).h.lastError == 1 && (t.chan 0).h.state == .idle) = true := by
  decide +kernel

/-- The handler of channel 0 has just been entered. -/
def inHandler (ccr csr : Word) (l : Life) : State :=
  { on 0 (chan l ccr csr) with isr := some ⟨0, false, none, none, []⟩ }

theorem test_irq_handler_complete : moves (exec (.irqHandler 0) (inHandler 0x5F00 0x0301 .active)) (fun t =>
    reg t 0 .csr == 1 && reg t 0 .ccr == 0 && (t.chan 0).h.state == .idle &&
    t.trace == [.callback .half 0, .callback .complete 0] && t.isr.isNone) = true := by decide +kernel
theorem test_irq_handler_error : moves (exec (.irqHandler 0) (inHandler 0x5F00 0x1C01 .active)) (fun t =>
    reg t 0 .csr == 1 && reg t 0 .ccr == 0x5F00 && (t.chan 0).h.state == .idle && (t.chan 0).h.lastError == 7 &&
    t.trace == [.callback .error 0]) = true := by decide +kernel

/-! ## Codec and queues (95_test_vectors.md B3, B4) -/

theorem test_fill_node_linear : returns (exec (.fillNode .linear (config none)) two)
    (.node (.linear 0x000A000A 0x200 0x40 0x20001000 0x20002000 0)) = true := by decide +kernel
theorem test_fill_node_two_d : returns (exec (.fillNode .twoDimensional
      { config (some ⟨4, 8, .add, 0, .add, 64, .subtract, 128, .add⟩) with srcAddr := 0, dstAddr := 0, size := 32 }) two)
    (.node (.twoDimensional 0x000A000A 0x200 0x40030020 0 0 8 0x00800040 0)) = true := by decide +kernel
theorem test_decode_node : returns (exec (.decodeNode (.linear 3 0x600 0 1 2 0xFFFFFFFF)) two)
    (.nodeConfig { config none with
      srcInc := .fixed, dstInc := .fixed, srcWidth := .reserved, dstWidth := .byte, srcAddr := 1, dstAddr := 2
      size := 0 } .linear) = true := by decide +kernel
theorem test_convert_to_dynamic : gives (exec (.convertToDynamic 7) (queued twoQueue)) .ok (fun t =>
    mem t 0x20000100 6 == node 0x20002000 64 0x18010120 &&
    mem t 0x20000120 6 == [0x20001000, 0x20002040, 0, 0, 0, 0]) = true := by decide +kernel
theorem test_convert_to_static : gives (exec (.convertToStatic 7) compactState) .ok
    (fun t => t.mem == twoNodes && t.queue 7 == some twoQueue) = true := by decide +kernel
theorem test_convert_to_dynamic_twice : gives (exec (.convertToDynamic 7) compactState) .invalidParameter
    (fun t => t.mem == compactState.mem) = true := by decide +kernel
theorem test_update_dynamic_queue_links : gives (exec (.updateDynamicQueueLinks 7)
      { compactState with mem := writeWord compactState.mem 0x20000114 0 }) .ok
    (fun t => t.mem == compactState.mem) = true := by decide +kernel
theorem test_queue_init : gives (exec (.queueInit 7 .linear) two) .ok
    (fun t => t.queue 7 == some ⟨.linear, .static, [], none⟩) = true := by decide +kernel
theorem test_queue_insert_middle : gives (exec (.queueInsert 7 1 0x20000140) (queued twoQueue)) .ok (fun t =>
    mem t 0x20000114 1 == [0xF8010140] && mem t 0x20000154 1 == [0xF8010120] && mem t 0x20000134 1 == [0] &&
    (t.queue 7).map queueAddrs == some [0x20000100, 0x20000140, 0x20000120]) = true := by decide +kernel
theorem test_queue_insert_other_window : gives (exec (.queueInsert 7 1 0x20010100) (queued twoQueue)) .invalidParameter
    (fun t => t.mem == twoNodes) = true := by decide +kernel
theorem test_queue_remove_loop_target : gives
    (exec (.queueRemove 7 1) (queued { twoQueue with fc := some 0x20000120 })) .ok (fun t =>
    mem t 0x20000114 1 == [0] && (t.queue 7).map Queue.fc == some none &&
    (t.queue 7).map queueAddrs == some [0x20000100]) = true := by decide +kernel
theorem test_queue_replace : gives (exec (.queueReplace 7 0 0x20000140) (queued twoQueue)) .ok (fun t =>
    mem t 0x20000154 1 == [0xF8010120] && mem t 0x20000114 1 == [0] &&
    (t.queue 7).map queueAddrs == some [0x20000140, 0x20000120]) = true := by decide +kernel
theorem test_queue_set_circular : gives (exec (.queueSetCircular 7 1) (queued twoQueue)) .ok (fun t =>
    mem t 0x20000134 1 == [0xF8010120] && (t.queue 7).map Queue.fc == some (some 0x20000120)) = true := by decide +kernel
theorem test_queue_clear_circular : gives
    (exec (.queueClearCircular 7)
      { queued { twoQueue with fc := some 0x20000100 } with mem := writeWord twoNodes 0x20000134 0xF8010100 }) .ok
    (fun t => t.mem == twoNodes && (t.queue 7).map Queue.fc == some none) = true := by decide +kernel

/-! ## Link words and the register bus (95_test_vectors.md B1, B2) -/

theorem test_link_end : gives (exec (.linkEnd 0) (on 0 fun c => { idle c with cllr := 0xF8010120 })) .ok
    (fun t => reg t 0 .cllr == 0) = true := by decide +kernel
theorem test_link_static_linear : gives (exec (.linkStaticLinear 0 0x48) (on 0 idle)) .ok
    (fun t => reg t 0 .cllr == 0xF8010120) = true := by decide +kernel
theorem test_link_static_two_d : gives (exec (.linkStaticTwoDimensional 1 0x3FF8) (on 1 idle)) .ok
    (fun t => reg t 1 .cllr == 0xFE01FFE0) = true := by decide +kernel
theorem test_link_dynamic : gives (exec (.linkDynamic 0 0x18 0x50) (on 0 idle)) .ok
    (fun t => reg t 0 .cllr == 0x18010140) = true := by decide +kernel
theorem test_link : gives (exec (.link 0 0x05 0x50) (on 0 idle)) .ok
    (fun t => reg t 0 .cllr == 0xA0000140) = true := by decide +kernel
theorem test_reg_read : returns (exec (.regRead 0 .csr) two) (.word 1) = true := by decide +kernel
theorem test_status : returns (exec (.status 0) (on 0 (chan .active 1 0x301))) (.word 0x301) = true := by decide +kernel
theorem test_reg_write_csr_ignored : gives (exec (.regWrite 0 .csr 0xFFFFFFFF) (on 0 (chan .idle 0 0x301))) .ok
    (fun t => reg t 0 .csr == 0x301) = true := by decide +kernel
theorem test_reg_write_link_register_of_running : (match exec (.regWrite 0 .csar 0) (on 0 (running 1 0 8)) with
    | .refused r => r == .linkWriteWhileEnabled
    | _ => false) = true := by decide +kernel
theorem test_field_write : gives (exec (.fieldWrite 0 .srcBurst 0) (on 0 fun c => { idle c with ctr1 := 0x000A00FA })) .ok
    (fun t => reg t 0 .ctr1 == 0x000A000A) = true := by decide +kernel
theorem test_ctrl_word_write : gives
    (exec (.ctrlWordWrite 0 .ctr1 [(.srcWidth, 2), (.srcInc, 1), (.dstWidth, 2), (.dstInc, 1)]) two) .ok
    (fun t => reg t 0 .ctr1 == 0x000A000A) = true := by decide +kernel
theorem test_flag_clear : gives (exec (.flagClear 0 (FlagSet.ofWord Layout.u5 0x300)) (on 0 (chan .idle 0 0x301))) .ok
    (fun t => reg t 0 .csr == 1) = true := by decide +kernel
theorem test_ie_write : gives (exec (.ieWrite 0 (FlagSet.ofWord Layout.u5 0x1D00)) (on 0 (chan .idle 0x00800000 1))) .ok
    (fun t => reg t 0 .ccr == 0x00801D00) = true := by decide +kernel
theorem test_ie_set : gives (exec (.ieSet 0 (FlagSet.ofWord Layout.u5 0x2000)) (on 0 (chan .active 0x1D01 0))) .ok
    (fun t => reg t 0 .ccr == 0x3D01) = true := by decide +kernel
theorem test_hw_enable : gives (exec (.hwEnable 0) (on 0 fun c => { idle c with cbr1 := 64 })) .ok (fun t =>
    reg t 0 .ccr == 1 && reg t 0 .csr == 0 && (t.chan 0).hid.blkReload == 64 && (t.chan 0).hid.unitTotal == 64) = true := by
  decide +kernel
theorem test_hw_suspend_req_stopped : gives (exec (.hwSuspendReq 0) two) .ok (fun t => reg t 0 .ccr == 0) = true := by
  decide +kernel
theorem test_hw_suspend_req : gives (exec (.hwSuspendReq 0) (on 0 (running 1 0 8))) .ok
    (fun t => reg t 0 .ccr == 5) = true := by decide +kernel
theorem test_hw_resume : gives (exec (.hwResume 0) (on 0 fun c =>
      { running 0x3D05 0x2200 8 c with hid := { Hidden.zero with paused := true } })) .ok
    (fun t => reg t 0 .ccr == 0x3D01 && reg t 0 .csr == 0x200 && !(t.chan 0).hid.paused) = true := by decide +kernel
theorem test_hw_reset : gives (exec (.hwReset 0) (on 0 fun c =>
      { running 0x00803D05 0x2200 4 c with cllr := 0xF8010200 })) .ok
    (fun t => reg t 0 .ccr == 0x00803D00 && reg t 0 .csr == 1 && (t.chan 0).hid == Hidden.zero &&
      reg t 0 .cbr1 == 4 && reg t 0 .cllr == 0xF8010200) = true := by decide +kernel

/-- A linked channel and the memory of B2.21: three words at 0x20000120. -/
def loading (w : Word) : State :=
  { on 0 (linking w) with mem := writeWords [] 0x20000120 [0x20001000, 0x20002040, 0x18010140, 0xDEADBEEF] }

theorem test_link_load : moves (exec (.linkLoad 0) (loading 0x18010120)) (fun t =>
    reg t 0 .csar == 0x20001000 && reg t 0 .cdar == 0x20002040 && reg t 0 .cllr == 0x18010140 &&
    reg t 0 .ctr1 == 0) = true := by decide +kernel
theorem test_link_load_crosses : moves (exec (.linkLoad 0) (loading 0xF801FFF0)) (fun t =>
    reg t 0 .csr == 0x0801 && reg t 0 .ccr == 0 && reg t 0 .cllr == 0xF801FFF0) = true := by decide +kernel

/-! ## The engine (95_test_vectors.md B7, P2, P3) -/

/-- A channel that links to the first node of `twoNodes`. -/
def atHead (i : Nat) (w : Word) : State := { on i (linking w) with mem := twoNodes }

/-- Node 0 has been loaded in full. -/
def headLoaded (t : State) (i : Nat) : Bool :=
  reg t i .ctr1 == 0x000A000A && reg t i .ctr2 == 0x200 && reg t i .cbr1 == 64 && reg t i .csar == 0x20001000 &&
    reg t i .cdar == 0x20002000 && !(t.chan i).hid.linkPending

theorem test_n_lin_s : moves (exec (.nLinS 0 0x9F) (atHead 0 0xF8010100))
    (fun t => headLoaded t 0 && reg t 0 .cllr == 0xF8010120) = true := by decide +kernel
theorem test_e_link : moves (exec (.eLink 0) (atHead 0 0xF8010100))
    (fun t => headLoaded t 0 && (t.chan 0).hid.blkReload == 64) = true := by decide +kernel
theorem test_n_2d_s : moves (exec (.n2dS 1 0xFF)
      { on 1 (linking 0xFE010100) with
        mem := writeWords [] 0x20000100 [0x000A000A, 0x200, 64, 0x20001000, 0x20002000, 8, 0x10, 0x00000000] })
    (fun t => headLoaded t 1 && reg t 1 .ctr3 == 8 && reg t 1 .cbr2 == 0x10 && reg t 1 .cllr == 0) = true := by
  decide +kernel
theorem test_n_lin_d : moves (exec (.nLinD 0 0x98)
      { loading 0x18010120 with chans := (on 0 fun c => { linking 0x18010120 (words c) with
        hid := { Hidden.zero with linkPending := true, blkReload := 64 } }).chans })
    (fun t => reg t 0 .csar == 0x20001000 && reg t 0 .cdar == 0x20002040 && reg t 0 .cllr == 0x18010140 &&
      reg t 0 .cbr1 == 64 && reg t 0 .ctr1 == 0x000A000A) = true := by decide +kernel
theorem test_n_2d_d : moves (exec (.n2dD 1 0xAC)
      { on 1 (fun c => linking 0x34010120 (words c)) with mem := writeWords [] 0x20000120 [8, 0x20001000, 16, 0] })
    (fun t => reg t 1 .cbr1 == 8 && reg t 1 .csar == 0x20001000 && reg t 1 .ctr3 == 16 && reg t 1 .cllr == 0) = true := by
  decide +kernel
theorem test_e_start : moves (exec (.eStart 0) (on 0 fun c => { running 1 0 64 c with hid := Hidden.zero })) (fun t =>
    (t.chan 0).hid.blkReload == 64 && (t.chan 0).hid.unitTotal == 64 && reg t 0 .csr == 0) = true := by decide +kernel
theorem test_e_data_smallest_block : moves (exec (.eData 0)
      { on 0 (running 1 0 4) with mem := writeWords [] 0x1000 [0xA3A2A1A0] }) (fun t =>
    reg t 0 .cbr1 == 0 && reg t 0 .csar == 0x1004 && reg t 0 .cdar == 0x2004 && reg t 0 .csr == 0x301 &&
    reg t 0 .ccr == 0 && mem t 0x2000 1 == [0xA3A2A1A0]) = true := by decide +kernel
theorem test_e_data_address_wrap : moves (exec (.eData 0) (on 0 fun c => { running 1 0 8 c with csar := 0xFFFFFFFC }))
    (fun t => reg t 0 .csar == 0 && reg t 0 .cbr1 == 4) = true := by decide +kernel
theorem test_e_block_end : moves (exec (.eBlockEnd 1) (on 1 fun c =>
      { running 1 0x200 4 c with
        cbr1 := 0x40010000, csar := 0x1020, cdar := 0x2010, cbr2 := 0x00100020
        hid := { Hidden.zero with blkReload := 16, brcReload := 1, unitTotal := 16, unitMoved := 16 } })) (fun t =>
    reg t 1 .cbr1 == 0x40000010 && reg t 1 .csar == 0x1000 && reg t 1 .cdar == 0x2020 && reg t 1 .csr == 0x300) = true := by
  decide +kernel
theorem test_e_complete : moves (exec (.eComplete 0) (on 0 (running 0x5F01 0x300 0)))
    (fun t => reg t 0 .csr == 0x301 && reg t 0 .ccr == 0x5F00) = true := by decide +kernel

/-- Memory from 0x2008 up refuses writes (vector B7.11). -/
def guarded (f : Channel → Channel) : State :=
  { on 0 f with cfg := { Cfg.default with
      denials := [⟨none, none, none, none, none, some .dataWrite, none, 0x2008, 0xFFFFFFFF⟩] } }

theorem test_e_raise_dte : moves
    (exec (.eRaiseDte 0) (guarded fun c => { running 1 0x200 8 c with csar := 0x1008, cdar := 0x2008 })) (fun t =>
    reg t 0 .csr == 0x0601 && reg t 0 .ccr == 0 && reg t 0 .cbr1 == 8 && reg t 0 .csar == 0x1008) = true := by
  decide +kernel
theorem test_e_raise_ule : moves (exec (.eRaiseUle 0) (atHead 0 0xF801FFF0))
    (fun t => reg t 0 .csr == 0x0801 && reg t 0 .ccr == 0 && reg t 0 .cllr == 0xF801FFF0) = true := by decide +kernel
theorem test_e_raise_use : moves (exec (.eRaiseUse 0) { atHead 0 0xF8010100 with
      mem := writeWords [] 0x20000100 [0x000A000A, 0x200, 8, 0x20001002, 0x20002000, 0] })
    (fun t => reg t 0 .csr == 0x1001 && reg t 0 .ccr == 0 && reg t 0 .csar == 0x20001002) = true := by decide +kernel
theorem test_e_raise_to : moves (exec (.eRaiseTo 0) (on 0 fun c =>
      { running 1 0 8 c with ctr2 := 0x01000200, pins := ⟨true, true, true⟩ }))
    (fun t => reg t 0 .csr == 0x4000 && reg t 0 .ccr == 1) = true := by decide +kernel
theorem test_e_susp_ack : moves (exec (.eSuspAck 0) (on 0 (running 0x3D05 0x200 8)))
    (fun t => reg t 0 .csr == 0x2200 && (t.chan 0).hid.paused && t.irqLine 0) = true := by decide +kernel
theorem test_a_grant : moves (exec (.aGrant 0) (on 0 (running 1 0 8)))
    (fun t => reg t 0 .cbr1 == 4 && reg t 0 .csr == 0x200) = true := by decide +kernel

/-! ## Witnesses: states and operands that meet the hypotheses of each statement, clause by clause -/

/-- The configurable state of both channels: `Idle` with the configuration of B5.2. -/
def ready : State := (on 0 idle).onChan 1 idle

theorem default_wf : Cfg.default.wf = true := by decide +kernel

/-- A layout that is not LAYOUT_U5. -/
def otherLayout : Layout := { Layout.u5 with srcInc := 2, prio := ⟨20, 4⟩, reqSel := ⟨0, 8⟩, uCllr := 24 }

theorem witness_DecodeEncodeAgree :
    (Cfg.default.wf = true ∧ (Instr.linkDynamic 2 0x18 0x50).wf Cfg.default = true ∧
      encode Cfg.default (.linkDynamic 2 0x18 0x50) = some (.linkWord 2 0x18010140)) ∧
    (Instr.startDirectIt 3 0 4 65535).wf Cfg.default = true ∧
      encode Cfg.default (.startDirectIt 3 0 4 65535) = some (.cmd 0x0320 [0, 4, 65535, 4]) ∧
    (let k := { Cfg.default with layout := otherLayout, nodeRegs2d := 0xFE }
     k.wf = true ∧ (Instr.linkStaticTwoDimensional 2 0).wf k = true ∧
       encode k (.linkStaticTwoDimensional 2 0) = some (.linkWord 2 0x7F000000)) := by decide +kernel

theorem witness_DecodedIsWellFormed :
    Cfg.default.wf = true ∧ decode Cfg.default (.cmd 0x0035 [7, 1]) = .ok (.queueInit 7 .twoDimensional) := by
  decide +kernel

theorem witness_UnassignedCommandsViolate :
    (0x06#6).toNat ∈ [0x06, 0x07, 0x2C, 0x2D, 0x2E, 0x2F, 0x3B, 0x3C, 0x3D, 0x3E, 0x3F] ∧
    (0x3F#6).toNat ∈ [0x06, 0x07, 0x2C, 0x2D, 0x2E, 0x2F, 0x3B, 0x3C, 0x3D, 0x3E, 0x3F] ∧
    (1#2 : BitVec 2) ≠ 0 ∧ (3#2 : BitVec 2) ≠ 0 ∧
    decode two.cfg (.bus 0 .csar (.bits 1 1)) = .error .badBusAccess := by decide

theorem witness_LinkWordFields :
    (let c := linking 0xF801FFFC (Channel.powerOn false)
     Layout.u5.wf = true ∧ (0x2000FFFC : Word).toNat % 4 = 0 ∧ c.cllr = mkLink Layout.u5 0x9F 0x2000FFFC ∧
       c.lba = (0x2000FFFC : Word).extractLsb' 16 16) ∧
    otherLayout.wf = true ∧ (0xFE00FFFC : Word) &&& ~~~(linkFieldBits Cfg.default.layout) = 0 ∧
    decode Cfg.default (.linkWord 2 0xFE00FFFC) = .ok (.link 2 0x7F 0x3FFF) := by decide +kernel

theorem witness_StepRunsDecoded :
    (let s := { two with agenda := [.issue (.cmd 0x0000 []) 100] }
     s.agenda = [.issue (.cmd 0x0000 []) 100] ∧ s.isr = none ∧ s.app.todo = [] ∧
       decode s.cfg (.cmd 0x0000 []) = .ok (.init 0)) ∧
    (let s := { atHead 0 0xF8010100 with agenda := [.grant 0] }
     s.agenda = [.grant 0] ∧ (s.chan (0 : ChId).toNat).hid.linkPending = true) ∧
    (let s := { on 0 (running 1 0 8) with agenda := [.grant 0] }
     s.agenda = [.grant 0] ∧ (s.chan (0 : ChId).toNat).hid.linkPending = false) ∧
    (let h : Isr := ⟨0, true, none, none, [.call (.cmd 0x0023 [])]⟩
     let s := { on 0 (running 1 0 8) with agenda := [.isr 100], isr := some h }
     s.agenda = [.isr 100] ∧ s.isr = some h ∧ h.begun = true ∧ h.todo = [.call (.cmd 0x0023 [])] ∧
       decode s.cfg (.cmd 0x0023 []) = .ok (.suspendIt 0)) := by decide +kernel

/-- A running two-dimensional channel and nothing else. -/
def oneChannel : State := { State.powerOn Cfg.default [] with chans := [running 1 0 8 (Channel.powerOn true)] }

theorem answers_of_moves {o : Out} {p : State → Bool} (h : moves o p = true) : Answers o := by
  cases o with
  | next t => exact ⟨t, rfl⟩
  | fault _ => cases h
  | refused _ => cases h

theorem witness_StepKeepsInv :
    Inv { oneChannel with agenda := [.grant 0] } ∧ Answers (step { oneChannel with agenda := [.grant 0] }) := by
  refine ⟨⟨default_wf, by decide +kernel, ?_⟩, ?_⟩
  · intro c hc
    have : c = running 1 0 8 (Channel.powerOn true) := by simpa [oneChannel] using hc
    subst this
    exact ⟨by unfold idleCoherent; decide +kernel, by unfold suspendCoherent; decide +kernel,
      by unfold linearCoherent; decide +kernel, by unfold prioFits; decide +kernel⟩
  · exact answers_of_moves (p := fun _ => true) (by decide +kernel)

theorem witness_StepKeepsBuild : moves (step { two with agenda := [.tick] }) (fun t => t.tick == 1) = true := by
  decide +kernel

theorem witness_ResetValues : 15 < State.reset.chans.length := by decide +kernel

theorem witness_InitDeinitResult :
    Ready two ∧ Has two 1 ∧ life two 1 = .reset ∧ ¬ Has two 2 ∧ Has ready 1 ∧ life ready 1 ≠ .reset := by
  decide +kernel

theorem witness_SetConfigResult :
    Settable ready 0 ∧ Settable (on 0 (chan .init 0 1)) 0 ∧
    directConfigLegal ready.cfg { direct with request := 127 } = true ∧
    ready.cfg.features.linkedList = true ∧ priorityLegal ready.cfg 3 = true := by decide +kernel

theorem witness_Ctr1SetterResult :
    Settable ready 0 ∧ 1 ≤ (1 : Word).toNat ∧ (64 : Word).toNat ≤ 64 ∧ 1 ≤ (64 : Word).toNat ∧
    (⟨true, true, true, 3⟩ : DataHandling).padAlign.toNat < 4 := by decide +kernel

theorem witness_Ctr2SetterResult :
    Settable ready 0 ∧ (⟨63, .falling, .node⟩ : Trigger).source.toNat < 2 ^ ready.cfg.layout.trigSel.width ∧
    (⟨63, .falling, .node⟩ : Trigger).polarity ≠ .reserved := by decide +kernel

theorem witness_RepeatBlockSetterResult :
    Settable ready 1 ∧ (ready.chan (1 : ChId).toNat).twoD = true ∧
    repeatBlockLegal { repeats with blockCount := 1 } = true ∧
    repeatBlockLegal ⟨2048, 8191, .add, 8191, .add, 65535, .add, 65535, .subtract⟩ = true := by decide +kernel

theorem witness_SecuritySetterResult :
    Settable ready 0 ∧ ready.cfg.wf = true ∧ ready.cfg.features.security = true := by decide +kernel

theorem witness_RegisterGetterResult :
    Gettable ready 0 ∧ Gettable ready 1 ∧ ready.cfg.wf = true ∧ ready.cfg.features.security = true := by decide +kernel

theorem witness_HandleAccessorResult :
    Ready ready ∧ Has ready 0 ∧ (ready.chan (0 : ChId).toNat).h.state = .idle ∧
    (ready.chan (0 : ChId).toNat).h.state ≠ .reset ∧ ready.cfg.features.userData = true ∧
    ready.cfg.features.errorCodes = true := by decide +kernel

theorem witness_GetAfterSet :
    Settable ready 1 ∧ ready.cfg.wf = true ∧ directConfigLegal ready.cfg direct = true ∧ 1 ≤ (64 : Word).toNat ∧
    (64 : Word).toNat ≤ 64 ∧ triggerLegal ready.cfg.layout ⟨63, .rising, .block⟩ = true ∧
    dataHandlingLegal ⟨false, false, false, 3⟩ = true ∧ (ready.chan (1 : ChId).toNat).twoD = true ∧
    repeatBlockLegal repeats = true ∧ ready.cfg.features.security = true := by decide +kernel

theorem witness_PreconditionViolations :
    (Ready ready ∧ Precondition ready 2 (.setPort 2 .port0 .port1) (configurable (life ready 2)) ∧
      ready.chans.length ≤ (2 : ChId).toNat) ∧
    (Ready two ∧ Precondition two 0 (.resume 0) (life two 0 == .suspend) ∧ (life two 0 == .suspend) = false) ∧
    Precondition ready 2 (.getState 2) true ∧
    (Precondition ready 0 (.irqHandler 0) (ready.isr.any fun h => h.ch == (0 : ChId).toNat && !h.begun) ∧
      (ready.isr.any fun h => h.ch == (0 : ChId).toNat && !h.begun) = false) ∧
    (Precondition ready 0 (.startDirectItOpt 0 0 4 8 .silent)
        (IntSet.silent != .silent && directStartOk ready 0 0 4 8) ∧
      (IntSet.silent != .silent && directStartOk ready 0 0 4 8) = false) :=
  ⟨⟨by decide +kernel, .setPort _ _, by decide +kernel⟩, ⟨by decide +kernel, .resume, by decide +kernel⟩, .getState,
    ⟨.irqHandler, by decide +kernel⟩, .startDirectItOpt _ _ _ _, by decide +kernel⟩

/-- A running channel whose handle says something else. -/
def runningAs (l : Life) : State := on 0 fun c => { running 1 0 8 c with h := { c.h with state := l } }

theorem witness_EnabledLinkWriteRefused :
    (let s := runningAs .idle
     Ready s ∧ Has s 0 ∧ (s.chan (0 : ChId).toNat).ccr.en = true ∧ isLinkReg .clbar = true ∧
       isLinkReg (Fld.reg .lba) = true ∧ configures (.setConfigLinkedList 0 3) = true ∧ life s 0 = .idle) ∧
    Claims.Precondition (runningAs .idle) 0 (.setConfigLinkedList 0 3) true ∧
    (life (runningAs .init) 0 = .init ∧ ∀ p, Instr.resetPort 0 ≠ .setConfigLinkedList 0 p) ∧
    Claims.Precondition (runningAs .init) 0 (.resetPort 0) true :=
  ⟨by decide +kernel, Precondition.setConfigLinkedList (s := runningAs .idle) (ch := 0) 3,
    ⟨by decide +kernel, fun _ h => by cases h⟩, Precondition.resetPort (s := runningAs .init) (ch := 0)⟩

/-- The refusal of U5 on one step: over a running channel whose handle says `Idle` (93_implementation_defined.md U5). -/
theorem test_idle_over_running : (match exec (.setConfigLinkedList 0 3) (runningAs .idle) with
    | .refused r => r == .idleOverRunning
    | _ => false) = true := by decide +kernel

theorem witness_InterruptSubsets : Layout.u5.wf = true ∧ otherLayout.wf = true := by decide +kernel

theorem witness_StartDirectResult :
    Ready ready ∧ Has ready 0 ∧ life ready 0 = .idle ∧ (ready.chan (0 : ChId).toNat).h.mode = .direct ∧
    (ready.chan (0 : ChId).toNat).ccr.en = false ∧ (0xFFFFFFFC : Word).toNat % 4 = 0 ∧ (0 : Word).toNat % 4 = 0 ∧
    1 ≤ (1 : Word).toNat ∧ (65535 : Word).toNat ≤ 65535 ∧ IntSet.none ≠ .silent := by decide +kernel

theorem witness_StartLinkedListResult :
    let s := listReady twoQueue
    Ready s ∧ Has s 0 ∧ life s 0 = .idle ∧ (s.chan (0 : ChId).toNat).h.mode ≠ .direct ∧
    (s.chan (0 : ChId).toNat).ccr.en = false ∧ s.cfg.features.linkedList = true ∧ s.queue 7 = some twoQueue ∧
    twoQueue.nodes = ⟨0x20000100, 0x9F⟩ :: [⟨0x20000120, 0x9F⟩] ∧
    twoQueue.kind = (if (s.chan (0 : ChId).toNat).twoD then .twoDimensional else .linear) ∧
    addressesLegal (nodeWords s.cfg twoQueue.kind) (queueAddrs twoQueue) = true := by decide +kernel

theorem witness_StartBusyOrViolation :
    let a := on 0 (running 1 0 8)
    let b := (listReady twoQueue).onChan 0 fun c => { c with h := { c.h with state := .suspend } }
    (Ready a ∧ Instr.startDirectIt 0 0x1000 0x2000 65535 ∈ directStarts 0 0x1000 0x2000 65535 .none ∧
      directOperands 0 0x1000 0x2000 65535 a = true ∧ life a 0 = .active) ∧
    (directOperands 0 0x1000 0x2000 1 two = true ∧ life two 0 ≠ .active ∧ life two 0 ≠ .idle) ∧
    directOperands 0 0x1000 0x2000 65536 two = false ∧ directOperands 0 0x1002 0x2000 8 two = false ∧
    (Ready b ∧ Instr.startLinkedListIt 0 7 ∈ listStarts 0 7 .none ∧ listOperands 0 7 b = true ∧ life b 0 ≠ .active ∧
      life b 0 ≠ .idle) ∧
    (listOperands 0 7 (b.onChan 0 (running 1 0 8)) = true ∧ life (b.onChan 0 (running 1 0 8)) 0 = .active) ∧
    listOperands 0 8 b = false := by decide +kernel

theorem witness_EnableResult :
    (Ready ready ∧ Has ready 0 ∧ (ready.chan (0 : ChId).toNat).ccr.en = false) ∧
    ((on 0 (running 1 0 8)).chan (0 : ChId).toNat).ccr.en = true := by decide +kernel

theorem witness_SuspendResult :
    let a := on 0 (running 1 0 8)
    let b := on 0 (running 1 0x2000 8)
    let c := on 0 fun c => { running 0x3D05 0x2200 8 c with h := { c.h with state := .suspend } }
    let d := on 0 fun c => { running 0x3D01 0x2200 8 c with h := { c.h with state := .suspend } }
    (Ready a ∧ Has a 0 ∧ life a 0 = .active ∧ App a ∧ (a.chan (0 : ChId).toNat).csr.flags.suspf = false) ∧
    (life b 0 = .active ∧ App b ∧ (b.chan (0 : ChId).toNat).csr.flags.suspf = true) ∧
    (life c 0 = .suspend ∧ (c.chan (0 : ChId).toNat).ccr.susp = true) ∧
    (life d 0 = .suspend ∧ (d.chan (0 : ChId).toNat).ccr.susp = false) := by decide +kernel

/-- A budget of 0 is spent at once when the expiry test is not strict. -/
def atOnce (s : State) : State := { s with cfg := { s.cfg with timeoutStrict := false, abortTimeout := 0 } }

theorem witness_AbortResult :
    let a := on 0 (running 1 0 8)
    let b := on 0 (running 1 0x2000 8)
    (Ready ready ∧ Has ready 0 ∧ life ready 0 = .idle ∧ (ready.chan (0 : ChId).toNat).csr.idle = true ∧ App ready) ∧
    (life a 0 = .active ∧ (a.chan (0 : ChId).toNat).csr.idle = false ∧ App a ∧
      (a.chan (0 : ChId).toNat).csr.flags.suspf = false ∧ hasBudget a a.cfg.abortTimeout ∧
      ¬ hasBudget (atOnce a) (atOnce a).cfg.abortTimeout) ∧
    (life b 0 = .active ∧ (b.chan (0 : ChId).toNat).csr.idle = false ∧ App b ∧
      (b.chan (0 : ChId).toNat).csr.flags.suspf = true) := by decide +kernel

theorem witness_PollResult :
    let f (csr : Word) := ((on 0 (running 1 csr 8)).chan (0 : ChId).toNat).csr.flags
    let a := on 0 (running 1 0 8)
    (Ready a ∧ Has a 0 ∧ App a ∧ life a 0 = .active ∧ (a.chan (0 : ChId).toNat).h.mode ≠ .linkedListCircular) ∧
    errorSet (f 0x0701) = true ∧
    (errorSet (f 0x0200) = false ∧ wanted .halfComplete (f 0x0200) = true ∧ wanted .fullComplete (f 0x0200) = false) ∧
    (errorSet (f 0x0300) = false ∧ wanted .fullComplete (f 0x0300) = true) ∧
    (errorSet (f 0) = false ∧ wanted .halfComplete (f 0) = false ∧ hasBudget a 0 ∧ ¬ hasBudget (atOnce a) 0) := by
  decide +kernel

/-- HOST-APP waits since tick 0 on channel 0, whose CSR is given. -/
def waiting (k : WaitKind) (csr tick : Word) : State :=
  { on 0 (running 5 csr 8) with
    agenda := [.app 64], tick := tick, app := ⟨[.waitRead ⟨0, k, 0, 5⟩], none⟩ }

/-- A wait within its budget and one past it: 5 ticks are not, 6 are (TIMEOUT_STRICT). -/
theorem witness_waits (k : WaitKind) : WaitTurn (waiting k 0 5) ⟨0, k, 0, 5⟩ 64 [] :=
  ⟨rfl, Nat.le_refl _, rfl, rfl, Nat.zero_lt_two⟩

theorem witness_SuspendWaitStep :
    let c (csr : Word) := (waiting .suspend csr 6).chan 0
    (c 0x2000).csr.flags.suspf = true ∧
    ((c 0).csr.flags.suspf = false ∧ ¬ Expired (waiting .suspend 0 5) ⟨0, .suspend, 0, 5⟩) ∧
    (Expired (waiting .suspend 0x301 6) ⟨0, .suspend, 0, 5⟩ ∧ (c 0x301).csr.flags.suspf = false ∧
      (c 0x301).csr.idle = true) ∧
    (Expired (waiting .suspend 0 6) ⟨0, .suspend, 0, 5⟩ ∧ (c 0).csr.idle = false) := by decide +kernel

theorem witness_AbortWaitStep :
    let c (csr : Word) := (waiting (.abort true) csr 6).chan 0
    ((c 0x2000).csr.flags.suspf = true ∨ (c 0x2000).csr.idle = true) ∧
    ((c 0).csr.flags.suspf = false ∧ (c 0).csr.idle = false ∧
      ¬ Expired (waiting (.abort true) 0 5) ⟨0, .abort true, 0, 5⟩ ∧
      Expired (waiting (.abort true) 0 6) ⟨0, .abort true, 0, 5⟩) := by decide +kernel

theorem witness_PollWaitStep :
    let s (csr tick : Word) := waiting (.poll .fullComplete) csr tick
    let f (csr : Word) := ((s csr 6).chan 0).csr.flags
    let w : Wait := ⟨0, .poll .fullComplete, 0, 5⟩
    errorSet (f 0x0701) = true ∧ (errorSet (f 0x0301) = false ∧ wanted .fullComplete (f 0x0301) = true) ∧
    (errorSet (f 0x0200) = false ∧ wanted .fullComplete (f 0x0200) = false ∧ ¬ Expired (s 0x0200 5) w) ∧
    (errorSet (f 0) = false ∧ wanted .fullComplete (f 0) = false ∧ Expired (s 0 6) w ∧
      ((s 0 6).chan 0).h.state = .active) ∧
    ((f 0x2000).suspf = true ∧ Expired (s 0x2000 6) w ∧ ((s 1 6).chan 0).csr.idle = true) := by decide +kernel

theorem witness_TakeInterruptResult :
    let s := { on 1 (running 0x5F01 0x0200 8) with agenda := [.irq 1] }
    s.cfg.wf = true ∧ s.cfg.layout = Layout.u5 ∧
    s.agenda = [.irq 1] ∧ 1 < s.chans.length ∧ s.isr = none ∧ s.irqLine 1 = true ∧ two.irqLine 1 = false ∧
      (inHandler 0 0 .active).isr.isSome = true := by decide +kernel

theorem witness_HandlerResult :
    Entered (inHandler 0x7F01 0 .active) 0 ∧
    (let c (csr : Word) (l : Life) := (inHandler 0x7F01 csr l).chan (0 : ChId).toNat
     let tc (csr : Word) := (c csr .active).csr.flags.tc && (c csr .active).ccr.ie.tc
     let suspf (csr : Word) := (c csr .active).csr.flags.suspf && (c csr .active).ccr.ie.suspf
     (tc 0x0301 = true ∧ (c 0x0301 .active).csr.idle = true) ∧ (tc 0x0300 = true ∧ (c 0x0300 .active).csr.idle = false) ∧
     (tc 0x2000 = false ∧ suspf 0x2000 = true ∧ (c 0x2000 .abort).h.state = .abort ∧
       (c 0x2000 .active).h.state ≠ .abort) ∧
     (tc 0x4000 = false ∧ suspf 0x4000 = false ∧ errorSet (actingErrors (c 0x4000 .active)) = true) ∧
     (tc 0x0200 = false ∧ suspf 0x0200 = false ∧ errorSet (actingErrors (c 0x0200 .active)) = false)) := by
  refine ⟨⟨rfl, by decide +kernel, by decide +kernel, fun slot => ?_⟩, by decide +kernel⟩
  cases slot <;> decide +kernel

/-- `ready` with FEATURES.security off. -/
def unsecured : State := { ready with cfg := { ready.cfg with features := ⟨true, false, true, true⟩ } }

theorem witness_RegisterReadResult :
    Ready ready ∧ Has ready 0 ∧ Has ready 1 ∧ ready.cfg.wf = true ∧ ready.cfg.features.security = true ∧
    unsecured.cfg.features.security = false ∧ ready.cfg.layout = Layout.u5 := by decide +kernel

theorem witness_RegisterWriteResult :
    Ready ready ∧ Has ready 1 ∧ (ready.chan (1 : ChId).toNat).ccr.en = false := by decide +kernel

theorem witness_LinkWordWriteResult :
    Ready ready ∧ Has ready 1 ∧ (ready.chan (1 : ChId).toNat).ccr.en = false ∧ ready.cfg.wf = true ∧
    ready.cfg.layout = Layout.u5 ∧ ready.cfg.nodeRegs2d = 0b11111111 := by decide +kernel

theorem witness_FieldWriteResult :
    Ready ready ∧ Has ready 0 ∧ ready.cfg.wf = true ∧ (ready.chan (0 : ChId).toNat).ccr.en = false ∧
    isLinkReg (Fld.reg .brc) = true ∧ isLinkReg .ctr1 = true ∧
    (Instr.ctrlWordWrite 0 .ctr1 [(.srcBurst, 64), (.dstInc, 1)]).wf ready.cfg = true ∧ Fld.reg .susp = .ccr ∧
    (Instr.ctrlWordWrite 0 .ccr [(.susp, 0), (.en, 1)]).wf ready.cfg = true ∧ Fld.reg .tov = .csr ∧
    Fld.reg .csuspf = .cfcr ∧ (Instr.ctrlWordWrite 0 .cfcr [(.ctc, 1), (.cht, 0)]).wf ready.cfg = true ∧
    ready.cfg.features.security = true ∧ unsecured.cfg.features.security = false ∧ Fld.reg .chPriv = .secAttr := by
  decide +kernel

/-- One write of CCR enables, requests a suspend and sets the priority (log 17). -/
theorem test_ctrl_word_write_of_ccr : gives
    (exec (.ctrlWordWrite 0 .ccr [(.susp, 1), (.prio, 2), (.en, 1)]) (on 0 fun c => { idle c with cbr1 := 64 })) .ok
    (fun t => reg t 0 .ccr == 0x00800005 && (t.chan 0).hid.unitTotal == 64) = true := by decide +kernel

/-- Writing named fields of CFCR clears the flags whose fields get 1 (40_register_file.md R142, R145, R146). -/
theorem test_field_writes_of_cfcr :
    let s := on 0 fun c => { idle c with csr := csrOf 0x301 }
    gives (exec (.fieldWrite 0 .ctc 1) s) .ok (fun t => reg t 0 .csr == 0x201) = true ∧
    gives (exec (.ctrlWordWrite 0 .cfcr [(.ctc, 1), (.cht, 0)]) s) .ok (fun t => reg t 0 .csr == 0x201) = true := by
  decide +kernel

/-- The reserved trigger polarity raises USE at the start exactly where the parameter says so (log 47). -/
theorem test_reserved_polarity :
    let s := on 0 fun c => { idle c with cbr1 := 64, ctr2 := 0x03000200 }
    gives (exec (.hwEnable 0) s) .ok (fun t => (t.chan 0).ccr.en) = true ∧
    gives (exec (.hwEnable 0) { s with cfg := { s.cfg with polarityChecked := true } }) .ok
      (fun t => !(t.chan 0).ccr.en && (t.chan 0).csr.flags.use) = true := by decide +kernel

/-- A start looks at the addresses of the nodes, not at their kind tags (44_transfer_engine.md R265). -/
theorem test_start_of_retagged_queue :
    gives (exec (.startLinkedListSilent 0 7)
        { listReady twoQueue with nodeKinds := [(0x20000120, .twoDimensional)] }) .ok
      (fun t => (t.chan 0).ccr.en) = true := by decide +kernel

theorem witness_ControlMicroOpResult :
    Ready ready ∧ Has ready 0 ∧ (ready.chan (0 : ChId).toNat).ccr.susp = false ∧
    ((on 0 (running 5 0 8)).chan (0 : ChId).toNat).ccr.susp = true := by decide +kernel

/-- Reads of 0x20000100 are refused to the descriptor decoder (vector B7.10). -/
def refusing (f : Channel → Channel) : State :=
  { on 0 f with cfg := { Cfg.default with
      denials := [⟨none, none, none, none, none, some .linkRead, none, 0x20000100, 0x20000100⟩] } }

theorem witness_LinkLoadResult :
    let s := atHead 0 0xF801FFE8
    let b := atHead 0 0xF801FFEC
    (Has s 0 ∧ (s.chan (0 : ChId).toNat).ccr.en = true ∧ (s.chan (0 : ChId).toNat).hid.paused = false ∧
      Fetchable s 0) ∧
    (¬ Fetchable b 0 ∧ (b.chan (0 : ChId).toNat).ccr.en = true) ∧ ¬ Fetchable (refusing (linking 0xF8010100)) 0 := by
  decide +kernel

theorem witness_LinkStepResult :
    let s := atHead 0 0xF8010100
    Instr.aGrant 0 ∈ linkSteps 0 (selected s 0) ∧ Instr.nLinS 0 0x9F ∈ linkSteps 0 (selected s 0) ∧
    linkEnabled s (0 : ChId).toNat = true ∧ Fetchable s 0 := by decide +kernel

/-- The event of mode 2 is raised by the link step after the block (R318; log 16). -/
theorem test_event_mode_2 : moves (exec (.eLink 0) (({ atHead 0 0xF8010100 with agenda := [] } : State).onChan 0 fun c =>
      { c with ctr2 := 0x80000200, hid := { c.hid with tcDue := true } }))
    (fun t => reg t 0 .csr == 0x100 && !(t.chan 0).hid.tcDue) = true := by decide +kernel

theorem witness_LinkStepFails :
    let s := { atHead 0 0xF8010100 with
      mem := writeWords [] 0x20000100 [0x000A000A, 0x200, 8, 0x20001002, 0x20002000, 0] }
    let b := atHead 0 0xF801FFEC
    (linkEnabled b (0 : ChId).toNat = true ∧ ¬ Fetchable b 0) ∧
    (linkEnabled s (0 : ChId).toNat = true ∧ Fetchable s 0 ∧
      (linked s.cfg (Fld.uCbr1.test s.cfg.layout (s.chan (0 : ChId).toNat).cllr) (loaded s 0)).ccr.en = false) ∧
    (let g := atHead 0 0xF8010100
     (linked g.cfg (Fld.uCbr1.test g.cfg.layout (g.chan (0 : ChId).toNat).cllr) (loaded g 0)).ccr.en = true) := by
  decide +kernel

theorem witness_PlainDataStepResult :
    (on 0 (running 1 0 4)).cfg.wf = true ∧ PlainStep (on 0 (running 1 0 4)) 0 ∧
    PlainStep (on 1 (running 1 0 0x00010008)) 1 := by decide +kernel

/-- Bytes to words: the step of a wide destination. -/
def widening (c : Channel) : Channel := { running 1 0 8 c with ctr1 := 0x000A0008 }

/-- A plain step from a peripheral register, and a step with unequal widths, whose bytes are a free value. -/
theorem witness_DataStepResult :
    (let s := { on 0 (running 1 0 4) with cfg := { Cfg.default with devices := [(0x1000, 0x1003)] } }
     s.cfg.wf = true ∧ dataEnabled s (0 : ChId).toNat = true ∧ readCount s 0 = 1 ∧ s.isDevice (srcAt s 0 0) = true) ∧
    (dataEnabled (on 0 widening) (0 : ChId).toNat = true ∧ readCount (on 0 widening) 0 = 4) :=
  by decide +kernel

theorem witness_DataStepResult_admitted (n : Nat) :
    readsAdmitted (on 0 widening) 0 n ∧ writesAdmitted (on 0 widening) 0 n := ⟨fun _ _ => rfl, fun _ _ => rfl⟩

theorem witness_RefusedAccessResult :
    (let s := guarded fun c => { running 1 0x200 8 c with csar := 0x1008, cdar := 0x2008 }
     dataEnabled s (0 : ChId).toNat = true ∧ readsAdmitted s 0 (readCount s 0) ∧ 0 < writeCount s 0 ∧
       writesAdmitted s 0 0 ∧ s.admits 0 .dataWrite (dstAt s 0 0) 4 = false) ∧
    (let s := { on 0 widening with cfg := { Cfg.default with
       denials := [⟨none, none, none, none, none, some .dataRead, none, 0x1002, 0x1002⟩] } }
     dataEnabled s (0 : ChId).toNat = true ∧ 2 < readCount s 0 ∧ readsAdmitted s 0 2 ∧
       s.admits (0 : ChId).toNat .dataRead (srcAt s 0 2) 1 = false) := by decide +kernel

theorem witness_BlockEndResult :
    let s := on 1 fun c => { running 1 0x200 4 c with cbr1 := 0x07FF0000 }
    let c := s.chan (1 : ChId).toNat
    let d := (on 0 (running 1 0 0)).chan (0 : ChId).toNat
    let L := s.cfg.layout
    (Has s 1 ∧ s.cfg.wf = true ∧ c.ccr.en = true ∧ c.hid.paused = false ∧ bndtOf L c = 0 ∧ c.hid.linkPending = false) ∧
    (d.ccr.en = true ∧ d.hid.paused = false ∧ bndtOf L d = 0 ∧ brcOf L d = 0 ∧ d.cllr = 0) := by
  decide +kernel

theorem witness_StoppedChannelDoesNotMove :
    (ready.chan (0 : ChId).toNat).ccr.en = false ∧
    ((on 0 fun c => { running 5 0x2000 8 c with hid := { Hidden.zero with paused := true } }).chan
      (0 : ChId).toNat).hid.paused = true ∧ Instr.eData 0 ∈ engineRows 0 0 := by decide +kernel

theorem witness_AckAndOverrunResult :
    let s := on 0 fun c => { running 5 0 8 c with ctr2 := 0x02000200, pins := ⟨true, true, true⟩ }
    let c := s.chan (0 : ChId).toNat
    let d := (on 0 (running 1 0 8)).chan (0 : ChId).toNat
    (Has s 0 ∧ c.ccr.en = true ∧ c.ccr.susp = true ∧ c.hid.paused = false) ∧
    (Fld.trigPol.get Layout.u5 c.ctr2 = 2 ∧ c.pins.trigOverrun = true) ∧
    (d.ccr.en = true ∧ d.ccr.susp = false ∧ Fld.trigPol.get Layout.u5 d.ctr2 = 0 ∧ d.pins.trigOverrun = false) := by
  decide +kernel

/-- Two channels that want the bus, the second of the higher class, under StrictPriority. -/
def contest : State :=
  { (on 0 (running 0x1 0 8)).onChan 1 (running 0x00C00001 0 8) with cfg := { Cfg.default with strictPriority := true } }

theorem contest_wants : Wants contest.cfg (contest.chan 1) :=
  ⟨by decide +kernel, by decide +kernel, .inr ⟨by decide +kernel, .inl (by decide +kernel),
    .inl (.inl ⟨by decide +kernel, by decide +kernel⟩)⟩⟩

theorem contest_classes :
    ∀ j < contest.chans.length, (contest.chan j).ccr.prio.toNat ≤ (contest.chan 1).ccr.prio.toNat := by decide +kernel

theorem witness_GrantPolicy_refused : ¬ MayBeGranted contest 0 :=
  fun h => absurd (h.2.2 rfl 1 (by decide +kernel) contest_wants) (by decide +kernel)

theorem witness_GrantPolicy : MayBeGranted contest 1 :=
  ⟨by decide +kernel, contest_wants, fun _ j hj _ => contest_classes j hj⟩

theorem witness_GrantPolicy_steps :
    (contest.chan (1 : ChId).toNat).hid.linkPending = false ∧
    ((atHead 0 0xF8010100).chan (0 : ChId).toNat).hid.linkPending = true := by decide +kernel

theorem witness_EnvironmentTurns :
    let s := { two with mem := [(5, 1)], agenda := [.node 0x20000100 (.linear 1 2 3 4 5 6) 9] }
    Memory.wf s.mem = true ∧ s.agenda = [.node 0x20000100 (.linear 1 2 3 4 5 6) 9] ∧ ¬ Held s ∧ 9 ≤ 9 ∧
    Held (inHandler 0 0 .active) ∧ Held (waiting .suspend 0 5) ∧
    ({ two with agenda := [.tick] } : State).agenda = [.tick] ∧
    ({ two with agenda := [.pins 1 false true true] } : State).agenda = [.pins 1 false true true] ∧
    ({ two with agenda := [.store 0xFFFFFFFF 7] } : State).agenda = [.store 0xFFFFFFFF 7] := by decide +kernel

theorem witness_EngineFrame :
    Instr.eData 0 ∈ engineRows 0 0 ++ [.eStart 0, .eSuspAck 0, .eRaiseTo 0] ∧
    moves (exec (.eData 0) (on 0 (running 1 0 8))) (fun _ => true) = true ∧
    (let s := on 0 (running 1 0 8)
     let c := s.chan (0 : ChId).toNat
     let L := s.cfg.layout
     (sourceReads (0 : ChId).toNat (srcItem L c)
       (accessAddrs c.csar (Fld.srcInc.test L c.ctr1) (srcItem L c) (stepBytes L c / srcItem L c)) [] s).1
         = some [0, 0, 0, 0]) ∧
    (let s := refusing fun c => { running 1 0 8 c with csar := 0x20000100 }
     let r := { s with cfg := { s.cfg with
       denials := [⟨none, none, none, none, none, some .dataRead, none, 0, 0xFFFFFFFF⟩] } }
     let c := r.chan (0 : ChId).toNat
     let L := s.cfg.layout
     (sourceReads (0 : ChId).toNat (srcItem L c)
       (accessAddrs c.csar (Fld.srcInc.test L c.ctr1) (srcItem L c) (stepBytes L c / srcItem L c)) [] r).1 = none) := by
  decide +kernel

theorem witness_CodecResult : Ready two ∧ (config (some repeats)).rb = some repeats := by decide +kernel

theorem witness_FillDecodeRoundTrip :
    Ready two ∧ two.cfg.wf = true ∧ validConfig two.cfg .linear { config none with srcSec := true, size := 65535 } = true ∧
    validConfig two.cfg .twoDimensional { config (some repeats) with size := 1 } = true := by decide +kernel

theorem witness_QueueEditResult :
    let s := queued twoQueue
    let c := queued { twoQueue with fc := some 0x20000120 }
    (Ready s ∧ Editable s 7 twoQueue ∧ Editable c 7 { twoQueue with fc := some 0x20000120 }) ∧
    ((2 : Word).toNat ≤ twoQueue.nodes.length ∧
      nodesLegal s .linear (queueAddrs { twoQueue with
        nodes := twoQueue.nodes.take 2 ++ [⟨0x20000140, updAll s.cfg .linear⟩] ++ twoQueue.nodes.drop 2 }) = true) ∧
    (twoQueue.nodes[(1 : Word).toNat]? = some ⟨0x20000120, 0x9F⟩ ∧
      nodesLegal s .linear (queueAddrs { twoQueue with nodes := twoQueue.nodes.eraseIdx 1 }) = true ∧
      nodesLegal s .linear
        (queueAddrs { twoQueue with nodes := twoQueue.nodes.set 1 ⟨0x20000140, updAll s.cfg .linear⟩ }) = true) := by
  decide +kernel

theorem witness_StaticLinksKept :
    let s := queued twoQueue
    Ready s ∧ s.cfg.wf = true ∧ Memory.wf s.mem = true ∧ s.queue 7 = some twoQueue ∧
    gives (exec (.queueRemove 7 0) s) .ok
      (fun t => t.queue 7 == some { twoQueue with nodes := [⟨0x20000120, 0x9F⟩] }) = true := by decide +kernel

theorem witness_StaticLinksKept_links : LinksOk (queued twoQueue) twoQueue := by
  intro k a h
  match k, h with
  | 0, h => cases h; decide +kernel
  | 1, h => cases h; decide +kernel
  | k + 2, h => simp [queueAddrs, twoQueue] at h

theorem witness_QueueViolations :
    two.queue 7 = none ∧ (queued twoQueue).queue 7 = some twoQueue ∧ twoQueue.format = .static ∧
    twoQueue.nodes.length ≤ (2 : Word).toNat ∧ twoQueue.nodes.length < (3 : Word).toNat ∧
    (compactState.queue 7).map Queue.format = some .dynamic := by decide +kernel

/-- Each way in which node addresses or kinds are bad, at the boundary: 24 bytes from 0x2000FFEC cross the window's top,
a node 20 bytes after another overlaps it. -/
theorem witness_QueueViolations_nodes :
    BadNodes two .linear [0x20000102] ∧ BadNodes two .linear [0x20000100, 0x20010100] ∧
    BadNodes two .linear [0x2000FFEC] ∧ BadNodes two .linear [0x20000114, 0x20000100] ∧
    BadNodes { two with nodeKinds := [(0x20000100, .twoDimensional)] } .linear [0x20000100] := by
  refine ⟨.inl ⟨0x20000102, ?_⟩, .inr (.inl ⟨0x20010100, ?_⟩), .inr (.inr (.inl ⟨0x2000FFEC, ?_⟩)),
    .inr (.inr (.inr (.inl ⟨0, 1, 0x20000114, 0x20000100, ?_⟩))),
    .inr (.inr (.inr (.inr ⟨0x20000100, ?_, .twoDimensional, ?_⟩)))⟩ <;> decide +kernel

theorem witness_ConvertToDynamicResult :
    (QueueReady (queued twoQueue) twoQueue ∧ (queued twoQueue).queue 7 = some twoQueue ∧ twoQueue.nodes ≠ [] ∧
      nodesLegal (queued twoQueue) twoQueue.kind (queueAddrs twoQueue) = true ∧ twoQueue.format = .static) ∧
    (let v : Queue := ⟨.linear, .dynamic, [⟨0x20000100, 0x9F⟩, ⟨0x20000120, 0x98⟩], none⟩
     QueueReady compactState v ∧ compactState.queue 7 = some v ∧ v.nodes ≠ [] ∧
       nodesLegal compactState v.kind (queueAddrs v) = true ∧ v.format = .dynamic) := by decide +kernel

theorem witness_ConvertToStaticResult :
    let v : Queue := ⟨.linear, .dynamic, [⟨0x20000100, 0x9F⟩, ⟨0x20000120, 0x98⟩], none⟩
    let s := compactState
    let head := fullImage s.cfg s.mem v.kind 0x20000100
    QueueReady s v ∧ s.queue 7 = some v ∧ queueAddrs v = 0x20000100 :: [0x20000120] ∧
    nodesLegal s v.kind [0x20000100, 0x20000120] = true ∧ v.format = .dynamic ∧
    ∀ img ∈ (head :: expanded s.cfg s.mem v.kind head [0x20000120]).dropLast,
      (linkUpd s.cfg.layout (imgWord img 7)).getLsbD 7 = true := by decide +kernel

theorem witness_CompactionExpands :
    Cfg.default.wf = true ∧ ([1, 2, 3, 4, 5, 0, 0, 6] : List Word).length = 8 ∧
    ∀ i < 8, (updAll Cfg.default .linear).getLsbD i = false → imgWord [1, 2, 3, 4, 5, 0, 0, 6] i = 0 := by
  decide +kernel

theorem witness_ConversionRoundTrip :
    let v := { twoQueue with fc := some 0x20000120 }
    let s := queued v
    QueueReady s v ∧ s.cfg.wf = true ∧ Memory.wf s.mem = true ∧ s.queue 7 = some v ∧ v.nodes ≠ [] ∧
    v.format = .static ∧ nodesLegal s v.kind (queueAddrs v) = true := by decide +kernel

end Sys2Proof.Tests
end

section
/-! The obligations of 00_scope.md: a step runs the instruction that its turn decodes to (O6), no step changes the
parameters or the channels' number and kind (O9), and a failing precondition is a violation that changes nothing
(O20). -/

namespace Sys2Proof.Scope

open Sys2Proof.Machine Sys2Proof.Claims Sys2Proof.Safety

/-! ## A turn of the schedule runs the decoded instruction (00_scope.md R12; log 1, log 2) -/

/-- The next turn of the schedule is taken off it and run. -/
theorem step_of_agenda {s : State} {t : Turn} {rest : List Turn} (h : s.agenda = t :: rest) :
    step s = runTurn t { s with agenda := rest } := by
  simp [step, fetchTurn, h]

/-- A packet that encodes an instruction is issued as that instruction. -/
theorem issue_decoded {s : State} {p : Packet} {i : Instr} (h : decode s.cfg p = .ok i) : issue p s = exec i s := by
  simp [issue, h]

/-- HOST-APP issues a packet when it has no command in progress and no handler runs. -/
theorem runTurn_issue {s : State} (p : Packet) (q : Nat) (hisr : s.isr = none) (htodo : s.app.todo = []) :
    runTurn (.issue p q) s = issue p { s with quantum := q } := by
  simp [runTurn, State.appIdle, hisr, htodo]

/-- The granted channel has a link step to take: it executes the node format that CLLR selects. -/
theorem grant_link {s : State} {ch : ChId} (h : (s.chan ch.toNat).hid.linkPending = true) :
    grant ch s = exec (decodeNodeFormat s.cfg ch (linkUpd s.cfg.layout (s.chan ch.toNat).cllr)) s := by
  simp [grant, h]

/-- The granted channel is in a block: it takes a data step. -/
theorem grant_data {s : State} {ch : ChId} (h : (s.chan ch.toNat).hid.linkPending = false) :
    grant ch s = exec (.eData ch) s := by
  simp [grant, h]

/-- The handler issues the command that stands first among what is left of a callback. -/
theorem handlerTurn_call {s : State} {h : Isr} {p : Packet} {todo : List HostOp} (hisr : s.isr = some h)
    (hbegun : h.begun = true) (htodo : h.todo = .call p :: todo) :
    handlerTurn s = issue p { s with isr := some { h with todo := todo } } := by
  simp [handlerTurn, hisr, hbegun, htodo]

/-- Settles O6: one clause per kind of turn, each read off the turn's own equation. -/
theorem stepRunsDecoded : Obligations.StepRunsDecoded := by
  unfold Obligations.StepRunsDecoded
  refine ⟨?issue, ?link, ?data, ?callback⟩
  case issue =>
    intro s p q rest i hagenda hisr htodo hdec
    rw [step_of_agenda hagenda]
    exact (runTurn_issue (s := { s with agenda := rest }) p q hisr htodo).trans (issue_decoded hdec)
  case link =>
    intro s ch rest hagenda hpending
    refine ⟨_, rfl, ?_⟩
    rw [step_of_agenda hagenda]
    exact grant_link hpending
  case data =>
    intro s ch rest hagenda hpending
    rw [step_of_agenda hagenda]
    exact grant_data hpending
  case callback =>
    intro s h p q todo rest i hagenda hisr hbegun htodo hdec
    rw [step_of_agenda hagenda]
    exact (handlerTurn_call (s := { s with agenda := rest, quantum := q }) hisr hbegun htodo).trans
      (issue_decoded hdec)

/-! ## What keeps the parameters and the channels' number and kind (00_scope.md R7) -/

theorem sameBuild_refl (s : State) : SameBuild s s := ⟨rfl, rfl⟩

theorem sameBuild_trans {s t u : State} (h : SameBuild s t) (k : SameBuild t u) : SameBuild s u :=
  ⟨k.1.trans h.1, k.2.trans h.2⟩

/-- A channel replaced by one of its own kind. -/
theorem sameBuild_setChan {s : State} {i : Nat} {c : Channel} (h : c.twoD = (s.chan i).twoD) :
    SameBuild s (s.setChan i c) := by
  refine ⟨rfl, ?_⟩
  calc (s.setChan i c).chans.map (·.twoD)
      = (s.chans.map (·.twoD)).set i c.twoD := List.map_set
    _ = (s.setChan i (s.chan i)).chans.map (·.twoD) := by rw [h]; exact List.map_set.symm
    _ = s.chans.map (·.twoD) := by rw [State.setChan_self]

/-- A channel updated by a function that keeps its kind. -/
theorem sameBuild_onChan {s : State} {i : Nat} {f : Channel → Channel} (h : ∀ c, (f c).twoD = c.twoD) :
    SameBuild s (s.onChan i f) := sameBuild_setChan (h (s.chan i))

theorem sameBuild_of_onlyAccesses {s t : State} (h : OnlyAccesses s t) : SameBuild s t :=
  ⟨h.cfg, by rw [h.chans]⟩

theorem sameBuild_answer (s : State) (r : Reply) : SameBuild s (s.answer r) := by
  simp [SameBuild]

/-! ## No update of a channel changes its kind (10_state.md R20) -/

@[simp] theorem beginNode_twoD (k : Cfg) (c : Channel) : (beginNode k c).twoD = c.twoD := rfl
@[simp] theorem beginRepeat_twoD (k : Cfg) (c : Channel) : (beginRepeat k c).twoD = c.twoD := rfl
@[simp] theorem saveReload_twoD (L : Layout) (c : Channel) : (saveReload L c).twoD = c.twoD := rfl
@[simp] theorem setBndt_twoD (L : Layout) (n : Nat) (c : Channel) : (setBndt L n c).twoD = c.twoD := linkWrite_twoD ..
@[simp] theorem setBrc_twoD (L : Layout) (n : Nat) (c : Channel) : (setBrc L n c).twoD = c.twoD := linkWrite_twoD ..
@[simp] theorem incAddresses_twoD (L : Layout) (nr nw : Nat) (c : Channel) :
    (incAddresses L nr nw c).twoD = c.twoD := rfl
@[simp] theorem chAck_twoD (c : Channel) : (chAck c).twoD = c.twoD := rfl

@[simp] theorem engineStart_twoD (k : Cfg) (c : Channel) : (engineStart k c).twoD = c.twoD := by
  unfold engineStart; dsimp only; split_ifs <;> simp

@[simp] theorem chEnable_twoD (k : Cfg) (c : Channel) : (chEnable k c).twoD = c.twoD := by
  unfold chEnable; split <;> simp

@[simp] theorem engineComplete_twoD (L : Layout) (c : Channel) : (engineComplete L c).twoD = c.twoD := by
  unfold engineComplete; dsimp only; split <;> simp

@[simp] theorem blockOffsets_twoD (L : Layout) (c : Channel) : (blockOffsets L c).twoD = c.twoD := by
  unfold blockOffsets; split <;> rfl

@[simp] theorem blockEvent_twoD (L : Layout) (c : Channel) : (blockEvent L c).twoD = c.twoD := by
  unfold blockEvent; split
  · simp
  · split <;> simp
  · split <;> simp
  · rfl

@[simp] theorem blockEnd_twoD (k : Cfg) (c : Channel) : (blockEnd k c).twoD = c.twoD := by
  unfold blockEnd; dsimp only; split_ifs <;> simp

@[simp] theorem updateBndt_twoD (L : Layout) (g : Nat) (c : Channel) : (updateBndt L g c).twoD = c.twoD := by
  unfold updateBndt; dsimp only; split <;> simp

@[simp] theorem srcBurstEnd_twoD (k : Cfg) (c : Channel) : (srcBurstEnd k c).twoD = c.twoD := by
  unfold srcBurstEnd; split <;> rfl

@[simp] theorem dstBurstEnd_twoD (k : Cfg) (c : Channel) : (dstBurstEnd k c).twoD = c.twoD := by
  unfold dstBurstEnd; split <;> rfl

@[simp] theorem advance_twoD (k : Cfg) (g nw : Nat) (c : Channel) : (advance k g nw c).twoD = c.twoD := by
  unfold advance; dsimp only; split <;> simp [updateAddresses]

@[simp] theorem afterLoad_twoD (k : Cfg) (loads : Bool) (c : Channel) : (afterLoad k loads c).twoD = c.twoD := by
  unfold afterLoad; dsimp only; split_ifs <;> simp

@[simp] theorem ccrFieldWrite_twoD (k : Cfg) (f : Fld) (v : Word) (c : Channel) :
    (ccrFieldWrite k f v c).twoD = c.twoD := by
  unfold ccrFieldWrite; split
  · split <;> simp
  · split <;> simp
  · split <;> simp
  · simp
  · simp

@[simp] theorem ccrUpdate_twoD (k : Cfg) (fs : List (Fld × Word)) (c : Channel) :
    (ccrUpdate k fs c).twoD = c.twoD := by
  unfold ccrUpdate
  generalize ccrOrder = order
  induction order generalizing c with
  | nil => rfl
  | cons f order ih => rw [List.foldl_cons, ih]; split <;> simp

@[simp] theorem writeReg_twoD (k : Cfg) (r : Reg) (w : Word) (c : Channel) : (writeReg k r w c).twoD = c.twoD := by
  unfold writeReg; split
  · exact ccrUpdate_twoD ..
  · rfl
  · simp
  · split <;> rfl
  · simp

@[simp] theorem chSetError_twoD (on : Bool) (e : BitVec 4) (c : Channel) : (chSetError on e c).twoD = c.twoD := by
  unfold chSetError; split <;> simp

/-- A fetch that succeeds loads registers, no kind. -/
theorem linkLoad_twoD {i : Nat} {s : State} {c : Channel} (h : linkLoad i s = some c) :
    c.twoD = (s.chan i).twoD := by
  obtain ⟨-, -, rfl⟩ := linkLoad_some h
  exact (loadWords_keeps _ _ _).1

/-! ## Host operations keep the build -/

/-- Where a host operation goes on, the build is that of `s`. -/
def OpKeepsBuild (s : State) : OpResult → Prop
  | .go _ t | .yield _ t | .skip _ _ t => SameBuild s t
  | .fault _ | .refused _ => True

theorem innerViolation_keepsBuild {s : State} {r : OpResult} (h : OpKeepsBuild s r) :
    OpKeepsBuild s (innerViolation r s) := by
  unfold innerViolation; split
  · exact h
  · trivial
  · trivial

theorem hostRegWrite_keepsBuild (i : Nat) (r : Reg) (w : Word) (s : State) :
    OpKeepsBuild s (hostRegWrite i r w s) := by
  unfold hostRegWrite; split
  · trivial
  · exact sameBuild_onChan (writeReg_twoD s.cfg r w)

theorem expandNext_keepsBuild (q : Word) (v : Queue) (x : Expand) (s : State) :
    OpKeepsBuild s (expandNext q v x s) := by
  unfold expandNext; split
  · exact sameBuild_refl s
  · split
    · exact sameBuild_refl s
    · exact ⟨rfl, rfl⟩

theorem readDone_keepsBuild (k : ReadCont) (got : List Word) (s : State) : OpKeepsBuild s (readDone k got s) := by
  unfold readDone
  cases k with
  | toDynamic q =>
    dsimp only; split
    · exact sameBuild_refl s
    · split <;> exact sameBuild_refl s
  | toStaticHead q =>
    dsimp only; split
    · exact sameBuild_refl s
    · exact expandNext_keepsBuild ..
  | toStatic q x =>
    dsimp only; split
    · exact sameBuild_refl s
    · exact expandNext_keepsBuild ..

/-- Every host operation keeps the build: it decides on what it has read, updates one channel by an update that keeps
the channel's kind, or writes something that is neither parameters nor channels. -/
theorem runOp_keepsBuild (op : HostOp) (s : State) : OpKeepsBuild s (runOp op s) := by
  cases op
  case require i t left =>
    rcases runOp_require_cases i t left s with h | h <;> rw [h]
    · exact sameBuild_refl s
    · exact innerViolation_keepsBuild (sameBuild_refl s)
  case abortGuard i =>
    unfold runOp; dsimp only; split
    · exact sameBuild_refl s
    · exact sameBuild_refl s
    · exact innerViolation_keepsBuild (sameBuild_refl s)
  case idleOverRunning i =>
    unfold runOp; dsimp only; split
    · trivial
    · exact sameBuild_refl s
  case busyTest | waitRead | waitTick | collect | compact | updateLinks =>
    unfold runOp; dsimp only; split <;> exact sameBuild_refl s
  case rmw | answer | orError | waitStart | abortIdle | abortItIdle | idleTest | suspendedTest | call =>
    exact sameBuild_refl s
  case regWrite i r w => exact hostRegWrite_keepsBuild i r w s
  case flagClear fs => exact sameBuild_onChan (chFlagClear_twoD fs)
  case ieWrite fs => exact sameBuild_onChan (chIeWrite_twoD fs)
  case ieSet fs => exact sameBuild_onChan (chIeSet_twoD fs)
  case setPrio p => exact sameBuild_onChan (chSetPrio_twoD s.cfg.layout p)
  case ccrFields fs => exact sameBuild_onChan (ccrUpdate_twoD s.cfg fs)
  case enable => exact sameBuild_onChan (chEnable_twoD s.cfg)
  case suspReq => exact sameBuild_onChan chSuspReq_twoD
  case resume => exact sameBuild_onChan chResume_twoD
  case chReset => exact sameBuild_onChan chReset_twoD
  case setError e => exact sameBuild_onChan (chSetError_twoD s.cfg.features.errorCodes e)
  case setState | setMode | setHead | setUserData | setCallback | setBlockSize =>
    exact sameBuild_onChan (onHandle_twoD _)
  case ret r => exact sameBuild_answer s r
  case snapCcr i =>
    unfold runOp; dsimp only; split
    · exact ⟨rfl, rfl⟩
    · exact sameBuild_refl s
  case snapCsr | emit | isrReturn | memWrite | tag | setQueue => exact ⟨rfl, rfl⟩
  case readWords left got k =>
    cases left with
    | nil => exact readDone_keepsBuild k got s
    | cons a rest => exact sameBuild_refl s

theorem runOps_sameBuild {n : Nat} {ops rest : List HostOp} {s t : State} (h : runOps n ops s = .next (rest, t)) :
    SameBuild s t := by
  induction n generalizing ops s with
  | zero => cases h; exact sameBuild_refl _
  | succ n ih =>
    cases ops with
    | nil => cases h; exact sameBuild_refl _
    | cons op ops =>
      have hop := runOp_keepsBuild op s
      cases hr : runOp op s with
      | go ops' s' =>
        rw [hr] at hop
        rw [runOps_go hr] at h
        exact sameBuild_trans hop (ih h)
      | yield ops' s' =>
        rw [hr] at hop
        rw [runOps_yield hr] at h
        cases h
        exact hop
      | skip left ops' s' =>
        rw [hr] at hop
        rw [runOps_skip hr] at h
        exact sameBuild_trans hop (ih h)
      | fault f => rw [runOps_fault hr] at h; cases h
      | refused r => rw [runOps_refused hr] at h; cases h

/-! ## Instructions and turns keep the build -/

/-- Where a step goes on, the build is that of `s`. -/
def KeepsBuild (s : State) : Out → Prop
  | .next t => SameBuild s t
  | .fault _ | .refused _ => True

/-- A step that begins with a change of the schedule or of a host context. -/
theorem keepsBuild_of_sameBuild {s t : State} {o : Out} (h : SameBuild s t) (k : KeepsBuild t o) : KeepsBuild s o := by
  cases o with
  | next u => exact sameBuild_trans h k
  | fault f => trivial
  | refused r => trivial

theorem keepsBuild_ite {s t : State} {p : Prop} [Decidable p] (h : SameBuild s t) :
    KeepsBuild s (.next (if p then t else s)) := by
  split
  · exact h
  · exact sameBuild_refl s

theorem violation_keepsBuild (s : State) : KeepsBuild s (violation s) := by
  unfold violation; split
  · exact sameBuild_answer s _
  · trivial
  · trivial

theorem putPending_sameBuild (s : State) (irq : Bool) (ops : List HostOp) : SameBuild s (s.putPending irq ops) := by
  cases irq <;> exact ⟨rfl, rfl⟩

theorem runHost_keepsBuild (ops : List HostOp) (s : State) : KeepsBuild s (runHost ops s) := by
  unfold runHost
  cases h : runOps s.quantum (ops ++ s.pending) s with
  | next r => exact sameBuild_trans (runOps_sameBuild h) (putPending_sameBuild ..)
  | fault f => trivial
  | refused r => trivial

theorem command_keepsBuild (g : Bool) (gs : List (Nat → HostOp)) (ops : List HostOp) (s : State) :
    KeepsBuild s (command g gs ops s) := by
  rcases command_cases g gs ops s with h | h <;> rw [h]
  · exact runHost_keepsBuild ..
  · exact violation_keepsBuild s

theorem withQueue_keepsBuild {q : Word} {s : State} {k : Queue → Out} (h : ∀ v, KeepsBuild s (k v)) :
    KeepsBuild s (withQueue q s k) := by
  unfold withQueue; split
  · exact violation_keepsBuild s
  · exact h _

theorem dataStep_sameBuild (i : Nat) (s : State) : SameBuild s (dataStep i s) := by
  have hacc := dataAccess_only i s
  have hset {c : Channel} (h : c.twoD = (s.chan i).twoD) : SameBuild s ((dataAccess i s).2.setChan i c) :=
    sameBuild_trans (sameBuild_of_onlyAccesses hacc) (sameBuild_setChan (by rw [hacc.chan]; exact h))
  rcases dataStep_cases i s with ⟨-, h⟩ | ⟨nw, -, h⟩ <;> rw [h]
  · exact hset (chRaiseFatal_twoD ..)
  · exact hset (advance_twoD ..)

theorem linkStep_sameBuild (i : Nat) (s : State) : SameBuild s (linkStep i s) := by
  rcases linkStep_cases i s with ⟨-, h⟩ | ⟨c, hload, h⟩ <;> rw [h]
  · exact sameBuild_setChan (chRaiseFatal_twoD ..)
  · exact sameBuild_setChan ((afterLoad_twoD ..).trans (linkLoad_twoD hload))

theorem takeData_sameBuild (i : Nat) (s : State) : SameBuild s (takeData i s) := by
  rcases takeData_cases i s with ⟨-, h⟩ | ⟨-, h⟩ <;> rw [h]
  · exact sameBuild_refl s
  · exact dataStep_sameBuild i s

theorem takeLink_sameBuild (i : Nat) (s : State) : SameBuild s (takeLink i s) := by
  rcases takeLink_cases i s with ⟨-, h⟩ | ⟨-, h⟩ <;> rw [h]
  · exact sameBuild_refl s
  · exact linkStep_sameBuild i s

theorem execNode_sameBuild (ch : ChId) (upd : BitVec 8) (s : State) : SameBuild s (execNode ch upd s) := by
  unfold execNode; split
  · exact takeLink_sameBuild ..
  · exact sameBuild_refl s

theorem execLinkLoad_keepsBuild (ch : ChId) (s : State) : KeepsBuild s (execLinkLoad ch s) := by
  unfold execLinkLoad
  dsimp only [KeepsBuild]; split
  · split
    · exact sameBuild_onChan (chRaiseFatal_twoD flagULE)
    · exact sameBuild_setChan (linkLoad_twoD ‹_›)
  · exact sameBuild_refl s

theorem execAGrant_keepsBuild (ch : ChId) (s : State) : KeepsBuild s (execAGrant ch s) := by
  unfold execAGrant
  dsimp only [KeepsBuild]; split
  · exact takeLink_sameBuild ..
  · exact takeData_sameBuild ..

theorem execIrqHandler_keepsBuild (ch : ChId) (s : State) : KeepsBuild s (execIrqHandler ch s) := by
  unfold execIrqHandler; split
  · exact keepsBuild_of_sameBuild ⟨rfl, rfl⟩ (runHost_keepsBuild ..)
  · exact violation_keepsBuild s

/-- Every instruction keeps the build: a host command runs host operations or is a violation, a queue command does so on
the record it names, and a step of the engine updates one channel after its accesses. -/
theorem exec_keepsBuild (i : Instr) (s : State) : KeepsBuild s (exec i s) := by
  cases i
  case fillNode | decodeNode | queueInit => exact runHost_keepsBuild ..
  case convertToDynamic | convertToStatic | updateDynamicQueueLinks | queueInsert | queueRemove | queueReplace
      | queueSetCircular | queueClearCircular =>
    exact withQueue_keepsBuild fun v => command_keepsBuild ..
  case startDirectItOpt ch src dst size set =>
    show KeepsBuild s (if set = .silent then violation s else startDirect ch src dst size set s)
    split
    · exact violation_keepsBuild s
    · exact command_keepsBuild ..
  case irqHandler ch => exact execIrqHandler_keepsBuild ch s
  case nLinS | n2dS | nLinD | n2dD => exact execNode_sameBuild ..
  case linkLoad ch => exact execLinkLoad_keepsBuild ch s
  case aGrant ch => exact execAGrant_keepsBuild ch s
  case eStart => exact keepsBuild_ite (sameBuild_onChan (engineStart_twoD s.cfg))
  case eBlockEnd => exact keepsBuild_ite (sameBuild_onChan (blockEnd_twoD s.cfg))
  case eComplete => exact keepsBuild_ite (sameBuild_onChan (engineComplete_twoD s.cfg.layout))
  case eSuspAck => exact keepsBuild_ite (sameBuild_onChan chAck_twoD)
  case eRaiseTo => exact keepsBuild_ite (sameBuild_onChan (chRaise_twoD flagTO))
  case eRaiseDte => exact keepsBuild_ite (dataStep_sameBuild ..)
  case eRaiseUle | eRaiseUse => exact keepsBuild_ite (linkStep_sameBuild ..)
  case eData => exact takeData_sameBuild ..
  case eLink => exact takeLink_sameBuild ..
  -- every other row is one `command`: the host commands with a channel, the micro-operations and the link words
  all_goals exact command_keepsBuild ..

theorem issue_keepsBuild (p : Packet) (s : State) : KeepsBuild s (issue p s) := by
  unfold issue; split
  · exact exec_keepsBuild ..
  · exact violation_keepsBuild s

theorem handlerTurn_keepsBuild (s : State) : KeepsBuild s (handlerTurn s) := by
  unfold handlerTurn; split
  · exact sameBuild_refl s
  · split
    · exact exec_keepsBuild ..
    · split
      · exact keepsBuild_of_sameBuild ⟨rfl, rfl⟩ (issue_keepsBuild ..)
      · exact runHost_keepsBuild ..

/-- Every turn keeps the build. -/
theorem runTurn_keepsBuild (t : Turn) (s : State) : KeepsBuild s (runTurn t s) := by
  unfold runTurn
  cases t with
  | issue p q =>
    dsimp only; split
    · exact keepsBuild_of_sameBuild ⟨rfl, rfl⟩ (issue_keepsBuild ..)
    · exact sameBuild_refl s
  | app q =>
    dsimp only; split
    · exact keepsBuild_of_sameBuild ⟨rfl, rfl⟩ (runHost_keepsBuild ..)
    · exact sameBuild_refl s
  | store a v => exact keepsBuild_ite ⟨rfl, rfl⟩
  | node a n q =>
    dsimp only; split
    · exact keepsBuild_of_sameBuild ⟨rfl, rfl⟩ (runHost_keepsBuild ..)
    · exact sameBuild_refl s
  | irq ch =>
    show SameBuild s (takeInterrupt ch s)
    rcases takeInterrupt_cases ch s with h | ⟨-, -, -, h⟩ <;> rw [h]
    · exact sameBuild_refl s
    · exact ⟨rfl, rfl⟩
  | isr q => exact keepsBuild_of_sameBuild ⟨rfl, rfl⟩ (handlerTurn_keepsBuild _)
  | grant ch =>
    dsimp only [grant]; split <;> exact exec_keepsBuild ..
  | ack ch => exact exec_keepsBuild ..
  | overrun ch => exact exec_keepsBuild ..
  | tick => exact ⟨rfl, rfl⟩
  | pins ch req trig ovr => exact sameBuild_onChan fun _ => rfl

theorem fetchTurn_sameBuild (s : State) : SameBuild s (fetchTurn s).2 := by
  unfold fetchTurn; split <;> exact ⟨rfl, rfl⟩

/-- Settles O9: the turn is fetched, and every turn keeps the build. -/
theorem stepKeepsBuild : Obligations.StepKeepsBuild := by
  unfold Obligations.StepKeepsBuild
  intro s t h
  have hkeep : KeepsBuild s (step s) := keepsBuild_of_sameBuild (fetchTurn_sameBuild s) (runTurn_keepsBuild ..)
  rw [h] at hkeep
  exact hkeep

/-! ## Failing preconditions (00_scope.md R11) -/

theorem violated_eq_violation (s : State) : violated s = violation s := rfl

/-- A run of host operations that ends at once in a violation, nothing left. -/
def violationRun (s : State) : Host.Outcome (List HostOp × State) Fault Refusal :=
  match violation s with
  | .next t => .next ([], t)
  | .fault f => .fault f
  | .refused r => .refused r

/-- A guard that lets its command go on, the state as it was. -/
def Passes (s : State) (g : Nat → HostOp) : Prop := ∀ left, runOp (g left) s = .go [] s

theorem passes_require {s : State} {i : Nat} {t : HandleTest} (h : handleTest t (s.chan i).h = true) :
    Passes s (.require i t) := fun left => runOp_require i t left s h

theorem passes_busyTest {s : State} {i : Nat} (h : (s.chan i).h.state ≠ .active) : Passes s (.busyTest i) := by
  intro left
  rw [runOp_busyTest, if_neg h]

/-- A precondition over the handle that fails drops the rest of its command, which ends as the build says. -/
theorem runOps_require_fails {n i : Nat} {t : HandleTest} {rest : List HostOp} {s : State}
    (h : handleTest t (s.chan i).h = false) :
    runOps (n + 2) (.require i t rest.length :: rest) s = violationRun s := by
  have hop := runOp_require_fails i t rest.length s h
  unfold violationRun violation
  unfold innerViolation at hop
  cases hb : s.cfg.build with
  | checked =>
    rw [hb] at hop
    rw [runOps_skip hop, List.drop_length, List.append_nil, runOps_go (runOp_ret _ _)]
    exact runOps_nil ..
  | debug => rw [hb] at hop; exact runOps_fault hop
  | unchecked => rw [hb] at hop; exact runOps_refused hop

/-- Guards that pass, then a precondition over the handle that fails. -/
theorem runOps_guarded_fails {pre post : List (Nat → HostOp)} {ops : List HostOp} {i : Nat} {t : HandleTest}
    {s : State} (hpre : ∀ g ∈ pre, Passes s g) (h : handleTest t (s.chan i).h = false) {n : Nat}
    (hn : pre.length + 2 ≤ n) :
    runOps n (guarded (pre ++ .require i t :: post) ops) s = violationRun s := by
  induction pre generalizing n with
  | nil =>
    obtain ⟨n, rfl⟩ := Nat.exists_eq_add_of_le' hn
    exact runOps_require_fails h
  | cons g pre ih =>
    obtain ⟨n, rfl⟩ := Nat.exists_eq_add_of_le' hn
    obtain ⟨hg, hpre⟩ := List.forall_mem_cons.mp hpre
    have hfuel : n + ((g :: pre).length + 2) = n + (pre.length + 2) + 1 := by rw [List.length_cons]; omega
    rw [List.cons_append, guarded_cons, hfuel, runOps_go (hg _)]
    exact ih hpre (by omega)

/-- A run that ends at once in a violation is the violation of its command. -/
theorem runHost_violation {ops : List HostOp} {s : State} (hp : s.pending = [])
    (h : runOps s.quantum ops s = violationRun s) : runHost ops s = violation s := by
  unfold violationRun at h
  cases hv : violation s with
  | next t =>
    obtain ⟨-, rfl⟩ := violation_next hv
    rw [hv] at h
    exact runHost_done hp le_rfl h (State.answer_isr ..) (State.answer_todo ..)
  | fault f => rw [hv] at h; simp [runHost, hp, h]
  | refused r => rw [hv] at h; simp [runHost, hp, h]

/-- A command whose operands are illegal, or one of whose first guards fails, is a violation. -/
theorem command_fails {b : Bool} {pre post : List (Nat → HostOp)} {ops : List HostOp} {i : Nat} {t : HandleTest}
    {s : State} (hr : Ready s) (hlen : pre.length ≤ 62) (hpre : ∀ g ∈ pre, Passes s g)
    (h : b = false ∨ handleTest t (s.chan i).h = false) :
    command b (pre ++ .require i t :: post) ops s = violation s := by
  obtain ⟨hp, hq⟩ := hr
  cases b with
  | false => exact command_violation rfl
  | true =>
    have ht : handleTest t (s.chan i).h = false := h.resolve_left nofun
    rw [command_run rfl]
    exact runHost_violation hp (runOps_guarded_fails hpre ht (by omega))

/-! ## The frames of the commands -/

theorem hasChan_eq_false {s : State} {i : Nat} (h : s.chans.length ≤ i) : s.hasChan i = false := by
  simpa [State.hasChan] using h

/-- The channel is absent, or what is asked beyond it fails. -/
theorem hasChan_and_eq_false {s : State} {i : Nat} {legal : Bool} (h : s.chans.length ≤ i ∨ legal = false) :
    (s.hasChan i && legal) = false := by
  rcases h with h | rfl
  · rw [hasChan_eq_false h, Bool.false_and]
  · exact Bool.and_false _

theorem contains_life (a l : Life) : [a].contains l = (l == a) := Bool.or_false _

theorem contains_life_pair (a b l : Life) : [a, b].contains l = (l == a || l == b) := by
  simp only [List.contains_cons, List.contains_nil, Bool.or_false]

theorem setterStates_contains (l : Life) : setterStates.contains l = configurable l := contains_life_pair ..

theorem initialised_contains (l : Life) : initialised.contains l = (l != .reset) := by cases l <;> rfl

/-- `irq_handler` is legal once in the handler of its channel (60_exceptions.md R375; log 22). -/
theorem execIrqHandler_violation {s : State} {ch : ChId}
    (h : s.chans.length ≤ ch.toNat ∨ (s.isr.any fun h => h.ch == ch.toNat && !h.begun) = false) :
    execIrqHandler ch s = violation s := by
  have hentered : handlerEntered ch s = s.isr.any fun h => h.ch == ch.toNat && !h.begun := by
    cases hisr : s.isr <;> simp [handlerEntered, hisr, beq_eq_decide]
  have hno := hasChan_and_eq_false (h.imp_right hentered.trans)
  simp [execIrqHandler, hno]

section Commands

variable {s : State} {ch : ChId} (hr : Ready s)
include hr

/-- A command whose first test is one of `H.State`. -/
theorem command_stateIn_fails {b : Bool} {allowed : List Life} {post : List (Nat → HostOp)} {ops : List HostOp}
    (h : b = false ∨ allowed.contains (life s ch) = false) :
    command b (stateIn ch allowed :: post) ops s = violation s :=
  command_fails (pre := []) hr (Nat.zero_le _) nofun h

/-- A command of an existing channel whose precondition is a life-cycle state. -/
theorem command_state_violation {allowed : List Life} {test : Bool} {ops : List HostOp}
    (htest : allowed.contains (life s ch) = test) (h : s.chans.length ≤ ch.toNat ∨ test = false) :
    command (s.hasChan ch.toNat) [stateIn ch allowed] ops s = violation s :=
  command_stateIn_fails hr (h.imp hasChan_eq_false htest.trans)

/-- A command of an existing channel whose preconditions are legal operands, then a life-cycle state. -/
theorem command_legal_state_violation {allowed : List Life} {legal test : Bool} {ops : List HostOp}
    (htest : allowed.contains (life s ch) = test) (h : s.chans.length ≤ ch.toNat ∨ (legal && test) = false) :
    command (s.hasChan ch.toNat && legal) [stateIn ch allowed] ops s = violation s := by
  refine command_stateIn_fails hr ?_
  rw [Bool.and_eq_false_iff, ← or_assoc] at h
  exact h.imp hasChan_and_eq_false htest.trans

/-- The setter frame (43_channel_config.md R223). -/
theorem setter_violation {legal : Bool} {ops : List HostOp}
    (h : s.chans.length ≤ ch.toNat ∨ (legal && configurable (life s ch)) = false) :
    setter ch legal ops s = violation s := command_legal_state_violation hr (setterStates_contains _) h

/-- The getter frame (43_channel_config.md R228). -/
theorem getterFrame_violation {legal : Bool} {ops : List HostOp}
    (h : s.chans.length ≤ ch.toNat ∨ (legal && life s ch != .reset) = false) :
    getterFrame ch legal ops s = violation s := command_legal_state_violation hr (initialised_contains _) h

/-- A start whose operands are illegal, or whose channel is neither active nor idle in a mode of that start
(44_transfer_engine.md R262, R265, R287). -/
theorem startFrame_violation {operands modeOk : Bool} {modes : List Mode} {ops : List HostOp}
    (hmode : modes.contains (s.chan ch.toNat).h.mode = modeOk)
    (h : (operands && (life s ch == .active || life s ch == .idle && modeOk)) = false) :
    startFrame ch operands modes ops s = violation s := by
  rcases Bool.and_eq_false_iff.mp h with rfl | h
  · exact command_violation rfl
  obtain ⟨hactive, hidle⟩ := Bool.or_eq_false_iff.mp h
  have hbusy : Passes s (.busyTest ch.toNat) := passes_busyTest (beq_eq_false_iff_ne.mp hactive)
  by_cases hl : life s ch = .idle
  · have hstate : Passes s (stateIn ch [.idle]) := passes_require (by simp [handleTest, hl])
    have hbad : modes.contains (s.chan ch.toNat).h.mode = false := hmode.trans (by simpa [hl] using hidle)
    exact command_fails (pre := [.busyTest ch.toNat, stateIn ch [.idle]]) hr (by simp)
      (List.forall_mem_cons.mpr ⟨hbusy, List.forall_mem_singleton.mpr hstate⟩) (.inr hbad)
  · exact command_fails (pre := [.busyTest ch.toNat]) hr (by simp) (List.forall_mem_singleton.mpr hbusy)
      (.inr (by simp [handleTest, hl]))

theorem startDirect_violation {src dst size : Word} {set : IntSet}
    (h : s.chans.length ≤ ch.toNat ∨ directStartOk s ch src dst size = false) :
    startDirect ch src dst size set s = violation s := by
  refine startFrame_violation hr (modeOk := (s.chan ch.toNat).h.mode == .direct) (Bool.or_false _) ?_
  rcases h with h | h
  · simp [directOperands, hasChan_eq_false h]
  · exact h

theorem startList_violation {q : Word} {set : IntSet}
    (h : s.chans.length ≤ ch.toNat ∨ listStartOk s ch q = false) : startList ch q set s = violation s := by
  refine startFrame_violation hr (modeOk := (s.chan ch.toNat).h.mode != .direct) ?_ ?_
  · cases (s.chan ch.toNat).h.mode <;> rfl
  rcases h with h | h
  · simp [listOperands, hasChan_eq_false h]
  · exact h

theorem execStartDirectItOpt_violation {src dst size : Word} {set : IntSet}
    (h : s.chans.length ≤ ch.toNat ∨ (set != .silent && directStartOk s ch src dst size) = false) :
    execStartDirectItOpt ch src dst size set s = violation s := by
  unfold execStartDirectItOpt
  split
  · rfl
  · next hset => exact startDirect_violation hr (by simpa [hset] using h)

/-- `poll_for_transfer` tests the caller, the state and the mode (44_transfer_engine.md R277, R281). -/
theorem execPollForTransfer_violation {level : Level} {timeout : Word}
    (h : s.chans.length ≤ ch.toNat ∨
      (s.isr.isNone && life s ch == .active && (s.chan ch.toNat).h.mode != .linkedListCircular) = false) :
    execPollForTransfer ch level timeout s = violation s := by
  by_cases hl : life s ch = .active
  · have hstate : Passes s (stateIn ch [.active]) := passes_require (by simp [handleTest, hl])
    refine command_fails (pre := [stateIn ch [.active]]) hr (by simp) (List.forall_mem_singleton.mpr hstate) ?_
    rw [hl, beq_self_eq_true, Bool.and_true, Bool.and_eq_false_iff, ← or_assoc] at h
    refine h.imp hasChan_and_eq_false fun hmode => ?_
    cases hm : (s.chan ch.toNat).h.mode <;> simp_all [handleTest]
  · exact command_stateIn_fails hr (.inr (by simp [hl]))

end Commands

/-- Settles O20: every command with a channel stands in one of the frames above. -/
theorem preconditionViolations : Obligations.PreconditionViolations := by
  unfold Obligations.PreconditionViolations
  intro s ch i g hr hp h
  rw [violated_eq_violation]
  cases hp
  case init | suspendIt | resume => exact command_state_violation hr (contains_life ..) h
  case abortIt => exact command_state_violation hr (contains_life_pair ..) h
  case registerCallback => exact command_state_violation hr (setterStates_contains _) h
  case suspend => exact command_legal_state_violation hr (contains_life ..) h
  case abort => exact command_legal_state_violation hr (contains_life_pair ..) h
  case deinit | getState => exact command_violation (hasChan_eq_false (h.resolve_right nofun))
  case setConfigDirect | setConfigLinkedList | setHwRequestMode | resetHwRequestMode | setPort | resetPort | setBurst
      | resetBurst | setTrigger | resetTrigger | setDataHandling | resetDataHandling | setRepeatBlock
      | resetRepeatBlock | setSecurity | resetSecurity =>
    exact setter_violation hr h
  case setUserData | getUserData | getLastError | getSecurity | getConfigDirect | getConfigLinkedList
      | getHwRequestMode | getPort | getBurst | getTrigger | getDataHandling | getRepeatBlock | getRemainingBytes =>
    exact getterFrame_violation hr h
  case startDirect | startDirectSilent | startDirectIt => exact startDirect_violation hr h
  case startDirectItOpt => exact execStartDirectItOpt_violation hr h
  case startLinkedList | startLinkedListSilent | startLinkedListIt | startLinkedListItOpt =>
    exact startList_violation hr h
  case pollForTransfer => exact execPollForTransfer_violation hr h
  case irqHandler => exact execIrqHandler_violation h

end Sys2Proof.Scope
end

section
/-! The invariant of 10_state.md: every step keeps it (O7), it holds at reset (O8), and the registers, the hidden state
and the handles of all channels hold their power-on values there (O10). -/

namespace Sys2Proof.Preservation

open Sys2Proof.Machine Sys2Proof.Claims Sys2Proof.Safety

/-! ## Power-on (10_state.md R56) -/

theorem powerOn_inv (L : Layout) (twoD : Bool) : ChannelInv L (Channel.powerOn twoD) where
  idle := rfl
  suspend _ := ⟨rfl, rfl⟩
  linear _ := ⟨rfl, rfl, BitVec.zero_and⟩
  prio := BitVec.zero_and

/-- Settles O8: no byte is listed, and every channel is one at power-on. -/
theorem resetInv : Obligations.ResetInv := by
  unfold Obligations.ResetInv
  refine ⟨Cfg.default_wf, rfl, fun c hc => ?_⟩
  obtain ⟨twoD, -, rfl⟩ := List.mem_map.mp hc
  exact powerOn_inv _ twoD

theorem reset_chan {i : Nat} (h : i < State.reset.chans.length) :
    ∃ twoD, State.reset.chan i = Channel.powerOn twoD := by
  obtain ⟨twoD, -, hchan⟩ := List.mem_map.mp (State.chan_mem _ i h)
  exact ⟨twoD, hchan.symm⟩

theorem powerOn_irqLine (twoD : Bool) : irqLine (Channel.powerOn twoD).csr (Channel.powerOn twoD).ccr = false := rfl

/-- Settles O10: every channel of the machine at reset is one at power-on, whose definition gives the values. -/
theorem resetValues : Obligations.ResetValues := by
  unfold Obligations.ResetValues
  intro i hi
  obtain ⟨twoD, hchan⟩ := reset_chan hi
  have hline : State.reset.irqLine i = false := by
    rw [State.irqLine, hchan]
    exact powerOn_irqLine twoD
  rw [hchan]
  exact ⟨⟨rfl, rfl, rfl, rfl, rfl, rfl, rfl, rfl⟩, rfl, rfl, rfl, rfl, rfl, rfl, hline⟩

/-! ## Channels that are not paused

A fatal raise and a completion clear EN but not `paused`; they keep the invariant because the engine moves only channels
that are not paused (45_channel_engine.md R300, R327). -/

/-- A channel that meets the invariant and is not paused. -/
structure Unpaused (L : Layout) (c : Channel) : Prop where
  inv : ChannelInv L c
  paused : c.hid.paused = false

section Channels

variable {L : Layout} {k : Cfg} {c : Channel}

/-- Moved addresses and another hidden state, still not paused. -/
theorem Unpaused.moved {a b : Word} {hid : Hidden} (h : Unpaused L c) (hp : hid.paused = false) :
    Unpaused L { c with csar := a, cdar := b, hid := hid } :=
  ⟨ChannelInv_congr h.inv rfl rfl rfl rfl rfl rfl rfl (hp.trans h.paused.symm) rfl, hp⟩

theorem Unpaused.raise (f : FlagSet) (h : Unpaused L c) : Unpaused L (chRaise f c) :=
  ⟨chRaise_inv f h.inv, h.paused⟩

theorem Unpaused.raiseFatal (f : FlagSet) (h : Unpaused L c) : ChannelInv L (chRaiseFatal f c) :=
  chRaiseFatal_inv f h.inv h.paused

theorem Unpaused.linkWrite (r : Reg) (w : Word) (h : Unpaused L c) : Unpaused L (linkWrite L c r w) :=
  ⟨linkWrite_inv r w h.inv, by simpa using h.paused⟩

theorem Unpaused.loadWords (ws : List (Reg × Word)) (h : Unpaused L c) : Unpaused L (loadWords L c ws) := by
  obtain ⟨-, -, -, hhid, -, -⟩ := loadWords_keeps L ws c
  exact ⟨loadWords_inv ws h.inv, by rw [hhid]; exact h.paused⟩

theorem Unpaused.setBndt (n : Nat) (h : Unpaused L c) : Unpaused L (setBndt L n c) := h.linkWrite ..

theorem Unpaused.setBrc (n : Nat) (h : Unpaused L c) : Unpaused L (setBrc L n c) := h.linkWrite ..

theorem Unpaused.saveReload (h : Unpaused L c) : Unpaused L (saveReload L c) := h.moved h.paused

theorem Unpaused.beginNode (h : Unpaused L c) : Unpaused L (beginNode k c) := h.moved h.paused

theorem Unpaused.beginRepeat (h : Unpaused L c) : Unpaused L (beginRepeat k c) := h.moved h.paused

/-- A start clears `paused`, whatever it was (45_channel_engine.md R305). -/
theorem unpaused_of_inv {hid : Hidden} (h : ChannelInv L c) (hp : hid.paused = false) :
    Unpaused L { c with hid := hid } :=
  ⟨⟨h.idle, fun hen => ⟨(h.suspend hen).1, hp⟩, h.linear, h.prio⟩, hp⟩

theorem engineStart_inv (h : ChannelInv k.layout c) : ChannelInv k.layout (engineStart k c) := by
  unfold engineStart
  dsimp only
  have hstart : Unpaused k.layout
      (saveReload k.layout { c with hid := { c.hid with paused := false, tcDue := false } }) :=
    (unpaused_of_inv h rfl).saveReload
  split_ifs
  · exact (hstart.moved rfl).beginNode.inv
  · exact (hstart.moved rfl).raiseFatal flagUSE
  · exact (hstart.moved rfl).inv
  · exact hstart.raiseFatal flagUSE

/-- An enabled channel: EN set, IDLE cleared (40_register_file.md R148). -/
theorem enabled_inv (h : ChannelInv L c) :
    ChannelInv L { c with ccr := { c.ccr with en := true }, csr := { c.csr with idle := false } } :=
  ⟨rfl, nofun, h.linear, h.prio⟩

theorem chEnable_inv (h : ChannelInv k.layout c) : ChannelInv k.layout (chEnable k c) := by
  unfold chEnable
  split
  · exact h
  · exact engineStart_inv (enabled_inv h)

theorem engineComplete_inv (h : Unpaused L c) : ChannelInv L (engineComplete L c) := by
  unfold engineComplete
  dsimp only
  have hraised : Unpaused L (if eventMode L c = 3 || c.hid.tcDue then chRaise flagTC c else c) := by
    split
    · exact h.raise flagTC
    · exact h
  exact ⟨rfl, fun _ => ⟨rfl, hraised.paused⟩, hraised.inv.linear, hraised.inv.prio⟩

theorem Unpaused.blockOffsets (h : Unpaused L c) : Unpaused L (blockOffsets L c) := by
  unfold Machine.blockOffsets
  split
  · exact h.moved h.paused
  · exact h

theorem Unpaused.blockEvent (h : Unpaused L c) : Unpaused L (blockEvent L c) := by
  unfold Machine.blockEvent
  split
  · exact h.raise flagTC
  · split
    · exact h.raise flagTC
    · exact h
  · split
    · exact h.moved h.paused
    · exact h
  · exact h

theorem blockEnd_inv (h : Unpaused k.layout c) : ChannelInv k.layout (blockEnd k c) := by
  unfold blockEnd
  dsimp only
  have hevent := h.blockOffsets.blockEvent
  split_ifs
  · exact ((hevent.setBrc _).setBndt _).beginRepeat.inv
  · exact Unpaused.inv (hevent.moved hevent.paused)
  · exact engineComplete_inv hevent

theorem Unpaused.updateBndt (g : Nat) (h : Unpaused L c) : Unpaused L (updateBndt L g c) := by
  unfold Machine.updateBndt
  dsimp only
  have hset := h.setBndt (bndtOf L c - g)
  split
  · exact Unpaused.raise flagHT (hset.moved hset.paused)
  · exact hset.moved hset.paused

theorem Unpaused.srcBurstEnd (h : Unpaused L c) : Unpaused L (srcBurstEnd k c) := by
  unfold Machine.srcBurstEnd
  split
  · exact h.moved h.paused
  · exact h

theorem Unpaused.dstBurstEnd (h : Unpaused L c) : Unpaused L (dstBurstEnd k c) := by
  unfold Machine.dstBurstEnd
  split
  · exact h.moved h.paused
  · exact h

theorem Unpaused.updateAddresses (nr nw : Nat) (h : Unpaused L c) : Unpaused L (updateAddresses k nr nw c) := by
  have hinc : Unpaused L (incAddresses k.layout nr nw c) := h.moved h.paused
  exact hinc.srcBurstEnd.dstBurstEnd

theorem advance_inv (g nw : Nat) (h : Unpaused k.layout c) : ChannelInv k.layout (advance k g nw c) := by
  unfold advance
  dsimp only
  have hmoved : Unpaused k.layout (updateAddresses k g nw (updateBndt k.layout g c)) :=
    (h.updateBndt g).updateAddresses g nw
  split
  · exact blockEnd_inv hmoved
  · exact hmoved.inv

/-- The registers that a load brings are those of a channel that goes on, or of one that USE stops
(45_channel_engine.md R316, R323). -/
theorem afterLoad_inv (loads : Bool) (h : Unpaused k.layout c) : ChannelInv k.layout (afterLoad k loads c) := by
  unfold afterLoad
  extract_lets _ due _ linked node
  have hdue : Unpaused k.layout due := by
    dsimp only [due]
    split
    · exact Unpaused.raise flagTC (h.moved h.paused)
    · exact h
  have hlinked : Unpaused k.layout linked := hdue.moved hdue.paused
  have hnode : Unpaused k.layout node := by
    dsimp only [node]
    split
    · exact hlinked.saveReload
    · exact (hlinked.setBrc _).setBndt _
  split_ifs
  · exact Unpaused.inv (hnode.moved hnode.paused)
  · exact hnode.raiseFatal flagUSE
  · exact hnode.beginNode.inv
  · exact hnode.raiseFatal flagUSE

/-- A pause answers a request of an enabled channel (45_channel_engine.md R326). -/
theorem chAck_inv (h : ChannelInv L c) (hen : c.ccr.en = true) : ChannelInv L (chAck c) where
  idle := h.idle
  suspend hoff := absurd (hen.symm.trans hoff) nofun
  linear := h.linear
  prio := h.prio

/-! ## Writes of a register (40_register_file.md R142, R143) -/

theorem ccrFieldWrite_inv (f : Fld) (v : Word) (h : ChannelInv k.layout c) :
    ChannelInv k.layout (ccrFieldWrite k f v c) := by
  unfold ccrFieldWrite
  split
  case h_1 => split; exacts [chEnable_inv h, h]
  case h_2 => split; exacts [chReset_inv h, h]
  case h_3 => split; exacts [chSuspReq_inv h, chResume_inv h]
  case h_4 => exact chSetPrio_inv v h
  case h_5 => exact chIeWrite_inv _ h

theorem ccrUpdate_inv (fs : List (Fld × Word)) (h : ChannelInv k.layout c) :
    ChannelInv k.layout (ccrUpdate k fs c) := by
  unfold ccrUpdate
  generalize ccrOrder = order
  induction order generalizing c with
  | nil => exact h
  | cons f order ih =>
    rw [List.foldl_cons]
    refine ih ?_
    split
    · exact ccrFieldWrite_inv f _ h
    · exact h

theorem writeReg_inv (r : Reg) (w : Word) (h : ChannelInv k.layout c) : ChannelInv k.layout (writeReg k r w c) := by
  unfold writeReg
  split
  · exact ccrUpdate_inv _ h
  · exact h
  · exact chFlagClear_inv _ h
  · split
    · exact ChannelInv_congr h rfl rfl rfl rfl rfl rfl rfl rfl rfl
    · exact h
  · exact linkWrite_inv r w h

end Channels

/-! ## Updates of the state -/

section States

variable {s t : State}

/-- The invariant looks at the parameters, the memory and the channels only. -/
theorem inv_congr (h : Inv s) (hcfg : t.cfg = s.cfg) (hmem : t.mem = s.mem) (hchans : t.chans = s.chans) : Inv t where
  cfg := hcfg ▸ h.cfg
  mem := hmem ▸ h.mem
  chans := by rw [hcfg, hchans]; exact h.chans

/-- Every channel read meets the invariant; one out of range reads as at power-on. -/
theorem chan_inv (h : Inv s) (i : Nat) : ChannelInv s.cfg.layout (s.chan i) := by
  by_cases hi : i < s.chans.length
  · exact h.chans _ (State.chan_mem s i hi)
  · rw [State.chan, List.getD_eq_default _ _ (Nat.le_of_not_lt hi)]
    exact powerOn_inv ..

theorem inv_setChan {i : Nat} {c : Channel} (h : Inv s) (hc : ChannelInv s.cfg.layout c) : Inv (s.setChan i c) where
  cfg := h.cfg
  mem := h.mem
  chans d hd := by
    rcases State.mem_setChan s i c d hd with rfl | hd
    · exact hc
    · exact h.chans d hd

theorem inv_onChan {i : Nat} {f : Channel → Channel} (h : Inv s)
    (hf : ChannelInv s.cfg.layout (s.chan i) → ChannelInv s.cfg.layout (f (s.chan i))) : Inv (s.onChan i f) :=
  inv_setChan h (hf (chan_inv h i))

theorem inv_answer (h : Inv s) (r : Reply) : Inv (s.answer r) := inv_congr h (by simp) (by simp) (by simp)

theorem inv_onlyAccesses (h : Inv s) (hacc : OnlyAccesses s t) : Inv t where
  cfg := hacc.cfg ▸ h.cfg
  mem := hacc.mem h.mem
  chans := by rw [hacc.cfg, hacc.chans]; exact h.chans

/-! ## Host operations keep the invariant -/

/-- Where a host operation goes on, the invariant holds. -/
def OpInv : OpResult → Prop
  | .go _ t | .yield _ t | .skip _ _ t => Inv t
  | .fault _ | .refused _ => True

theorem innerViolation_inv {r : OpResult} (h : OpInv r) : OpInv (innerViolation r s) := by
  unfold innerViolation
  split
  · exact h
  · trivial
  · trivial

theorem hostRegWrite_inv (i : Nat) (r : Reg) (w : Word) (h : Inv s) : OpInv (hostRegWrite i r w s) := by
  unfold hostRegWrite
  split
  · trivial
  · exact inv_onChan h (writeReg_inv r w)

theorem expandNext_inv (q : Word) (v : Queue) (x : Expand) (h : Inv s) : OpInv (expandNext q v x s) := by
  unfold expandNext
  split
  · exact h
  · split
    · exact h
    · exact inv_congr h rfl rfl rfl

theorem readDone_inv (k : ReadCont) (got : List Word) (h : Inv s) : OpInv (readDone k got s) := by
  unfold readDone
  cases k with
  | toDynamic q =>
    dsimp only; split
    · exact h
    · split <;> exact h
  | toStaticHead q | toStatic q x =>
    dsimp only; split
    · exact h
    · exact expandNext_inv _ _ _ h

/-- Every host operation keeps the invariant: it decides on what it has read, updates one channel, or writes memory, a
record or a host context. -/
theorem runOp_inv (op : HostOp) (h : Inv s) : OpInv (runOp op s) := by
  cases op
  case require i t left =>
    rcases runOp_require_cases i t left s with hop | hop <;> rw [hop]
    · exact h
    · exact innerViolation_inv h
  case abortGuard i =>
    unfold runOp; dsimp only; split
    · exact h
    · exact h
    · exact innerViolation_inv h
  case idleOverRunning i =>
    unfold runOp; dsimp only; split
    · trivial
    · exact h
  case busyTest | waitRead | waitTick | collect | compact | updateLinks =>
    unfold runOp; dsimp only; split <;> exact h
  case rmw | answer | orError | waitStart | abortIdle | abortItIdle | idleTest | suspendedTest | call => exact h
  case regWrite i r w => exact hostRegWrite_inv i r w h
  case flagClear fs => exact inv_onChan h (chFlagClear_inv fs)
  case ieWrite fs => exact inv_onChan h (chIeWrite_inv fs)
  case ieSet fs => exact inv_onChan h (chIeSet_inv fs)
  case setPrio p => exact inv_onChan h (chSetPrio_inv p)
  case ccrFields fs => exact inv_onChan h (ccrUpdate_inv fs)
  case enable => exact inv_onChan h chEnable_inv
  case suspReq => exact inv_onChan h chSuspReq_inv
  case resume => exact inv_onChan h chResume_inv
  case chReset => exact inv_onChan h chReset_inv
  case setError e => exact inv_onChan h (chSetError_inv _ e)
  case setState | setMode | setHead | setUserData | setCallback | setBlockSize => exact inv_onChan h (onHandle_inv _)
  case ret r => exact inv_answer h r
  case memWrite a w => exact ⟨h.cfg, writeWord_wf _ a w h.mem, h.chans⟩
  case snapCcr i =>
    unfold runOp; dsimp only; split
    · exact inv_congr h rfl rfl rfl
    · exact h
  case snapCsr | emit | isrReturn | tag | setQueue => exact inv_congr h rfl rfl rfl
  case readWords left got k =>
    cases left with
    | nil => exact readDone_inv k got h
    | cons a rest => exact h

theorem runOps_inv {n : Nat} {ops rest : List HostOp} (h : Inv s) (hrun : runOps n ops s = .next (rest, t)) :
    Inv t := by
  induction n generalizing ops s with
  | zero => cases hrun; exact h
  | succ n ih =>
    cases ops with
    | nil => cases hrun; exact h
    | cons op ops =>
      have hop := runOp_inv op h
      cases hr : runOp op s with
      | go ops' s' =>
        rw [hr] at hop
        rw [runOps_go hr] at hrun
        exact ih hop hrun
      | yield ops' s' =>
        rw [hr] at hop
        rw [runOps_yield hr] at hrun
        cases hrun
        exact hop
      | skip left ops' s' =>
        rw [hr] at hop
        rw [runOps_skip hr] at hrun
        exact ih hop hrun
      | fault f => rw [runOps_fault hr] at hrun; cases hrun
      | refused r => rw [runOps_refused hr] at hrun; cases hrun

/-! ## Instructions and turns keep the invariant -/

/-- Where a step goes on, the invariant holds. -/
def OutInv : Out → Prop
  | .next t => Inv t
  | .fault _ | .refused _ => True

theorem outInv_ite {p : Prop} [Decidable p] (h : Inv s) (ht : p → Inv t) : OutInv (.next (if p then t else s)) := by
  split
  · exact ht ‹_›
  · exact h

theorem violation_inv (h : Inv s) : OutInv (violation s) := by
  unfold violation
  split
  · exact inv_answer h _
  · trivial
  · trivial

theorem putPending_inv (irq : Bool) (ops : List HostOp) (h : Inv s) : Inv (s.putPending irq ops) := by
  cases irq <;> exact inv_congr h rfl rfl rfl

theorem runHost_inv (ops : List HostOp) (h : Inv s) : OutInv (runHost ops s) := by
  unfold runHost
  cases hrun : runOps s.quantum (ops ++ s.pending) s with
  | next r => exact putPending_inv _ _ (runOps_inv h hrun)
  | fault f => trivial
  | refused r => trivial

theorem command_inv (g : Bool) (gs : List (Nat → HostOp)) (ops : List HostOp) (h : Inv s) :
    OutInv (command g gs ops s) := by
  rcases command_cases g gs ops s with hcmd | hcmd <;> rw [hcmd]
  · exact runHost_inv _ h
  · exact violation_inv h

theorem withQueue_inv {q : Word} {k : Queue → Out} (h : Inv s) (hk : ∀ v, OutInv (k v)) :
    OutInv (withQueue q s k) := by
  unfold withQueue
  split
  · exact violation_inv h
  · exact hk _

theorem grantable_unpaused {i : Nat} (h : Inv s) (hg : grantable s i = true) :
    Unpaused s.cfg.layout (s.chan i) :=
  ⟨chan_inv h i, (grantable_running hg).2.2⟩

theorem running_unpaused {i : Nat} (h : Inv s) (hr : running (s.chan i) = true) :
    Unpaused s.cfg.layout (s.chan i) := by
  rw [running, Bool.and_eq_true, Bool.not_eq_true'] at hr
  exact ⟨chan_inv h i, hr.2⟩

/-- A data step of an unpaused channel, done or refused. -/
theorem dataStep_inv {i : Nat} (h : Inv s) (hu : Unpaused s.cfg.layout (s.chan i)) : Inv (dataStep i s) := by
  have hacc := dataAccess_only i s
  have hset {c : Channel} (hc : ChannelInv s.cfg.layout c) : Inv ((dataAccess i s).2.setChan i c) :=
    inv_setChan (inv_onlyAccesses h hacc) (by rw [hacc.cfg]; exact hc)
  rcases dataStep_cases i s with ⟨-, hstep⟩ | ⟨nw, -, hstep⟩ <;> rw [hstep]
  · exact hset (hu.raiseFatal flagDTE)
  · exact hset (advance_inv _ nw hu)

theorem linkLoad_unpaused {i : Nat} {c : Channel} (hu : Unpaused s.cfg.layout (s.chan i))
    (hload : linkLoad i s = some c) : Unpaused s.cfg.layout c := by
  obtain ⟨-, -, rfl⟩ := linkLoad_some hload
  exact hu.loadWords _

/-- A link step of an unpaused channel, done or failed. -/
theorem linkStep_inv {i : Nat} (h : Inv s) (hu : Unpaused s.cfg.layout (s.chan i)) : Inv (linkStep i s) := by
  rcases linkStep_cases i s with ⟨-, hstep⟩ | ⟨c, hload, hstep⟩ <;> rw [hstep]
  · exact inv_setChan h (hu.raiseFatal flagULE)
  · exact inv_setChan h (afterLoad_inv _ (linkLoad_unpaused hu hload))

theorem dataStep_inv_of_enabled {i : Nat} (h : Inv s) (he : dataEnabled s i = true) : Inv (dataStep i s) :=
  dataStep_inv h (grantable_unpaused h (dataEnabled_grantable he))

theorem linkStep_inv_of_enabled {i : Nat} (h : Inv s) (he : linkEnabled s i = true) : Inv (linkStep i s) :=
  linkStep_inv h (grantable_unpaused h (linkEnabled_grantable he))

theorem takeData_inv (i : Nat) (h : Inv s) : Inv (takeData i s) := by
  rcases takeData_cases i s with ⟨-, htake⟩ | ⟨he, htake⟩ <;> rw [htake]
  · exact h
  · exact dataStep_inv_of_enabled h he

theorem takeLink_inv (i : Nat) (h : Inv s) : Inv (takeLink i s) := by
  rcases takeLink_cases i s with ⟨-, htake⟩ | ⟨he, htake⟩ <;> rw [htake]
  · exact h
  · exact linkStep_inv_of_enabled h he

theorem execNode_inv (ch : ChId) (upd : BitVec 8) (h : Inv s) : Inv (execNode ch upd s) := by
  unfold execNode
  split
  · exact takeLink_inv _ h
  · exact h

theorem execLinkLoad_inv (ch : ChId) (h : Inv s) : OutInv (execLinkLoad ch s) := by
  unfold execLinkLoad
  refine outInv_ite h fun hrun => ?_
  have hu := running_unpaused h (Bool.and_eq_true _ _ ▸ hrun).2
  split
  · exact inv_setChan h (hu.raiseFatal flagULE)
  · exact inv_setChan h (linkLoad_unpaused hu ‹_›).inv

theorem execAGrant_inv (ch : ChId) (h : Inv s) : OutInv (execAGrant ch s) := by
  unfold execAGrant
  dsimp only [OutInv]
  split
  · exact takeLink_inv _ h
  · exact takeData_inv _ h

/-- A part of an engine step is taken on a running channel only. -/
theorem partStep_inv {ch : ChId} {enabled : Channel → Bool} {f : Channel → Channel} (h : Inv s)
    (hf : enabled (s.chan ch.toNat) = true → ChannelInv s.cfg.layout (f (s.chan ch.toNat))) :
    OutInv (partStep ch enabled f s) :=
  outInv_ite h fun hen => inv_setChan h (hf (Bool.and_eq_true _ _ ▸ hen).2)

theorem execEStart_inv (ch : ChId) (h : Inv s) : OutInv (execEStart ch s) :=
  partStep_inv h fun _ => engineStart_inv (chan_inv h _)

theorem execEBlockEnd_inv (ch : ChId) (h : Inv s) : OutInv (execEBlockEnd ch s) := by
  refine partStep_inv h fun hen => blockEnd_inv (running_unpaused h ?_)
  simp only [Bool.and_eq_true] at hen
  exact hen.1.1

theorem execEComplete_inv (ch : ChId) (h : Inv s) : OutInv (execEComplete ch s) := by
  refine partStep_inv h fun hen => engineComplete_inv (running_unpaused h ?_)
  simp only [Bool.and_eq_true] at hen
  exact hen.1.1.1

theorem execESuspAck_inv (ch : ChId) (h : Inv s) : OutInv (execESuspAck ch s) := by
  refine outInv_ite h fun hack => inv_setChan h (chAck_inv (chan_inv h _) ?_)
  simp only [ackEnabled, Bool.and_eq_true] at hack
  exact hack.1.1.2

theorem execIrqHandler_inv (ch : ChId) (h : Inv s) : OutInv (execIrqHandler ch s) := by
  unfold execIrqHandler
  split
  · exact runHost_inv _ (inv_congr h rfl rfl rfl)
  · exact violation_inv h

/-- Every instruction keeps the invariant: a host command runs host operations or is a violation, a queue command does
so on the record it names, and a step of the engine moves a channel that is not paused. -/
theorem exec_inv (i : Instr) (h : Inv s) : OutInv (exec i s) := by
  cases i
  case fillNode | decodeNode | queueInit => exact runHost_inv _ h
  case convertToDynamic | convertToStatic | updateDynamicQueueLinks | queueInsert | queueRemove | queueReplace
      | queueSetCircular | queueClearCircular =>
    exact withQueue_inv h fun v => command_inv _ _ _ h
  case startDirectItOpt ch src dst size set =>
    show OutInv (if set = .silent then violation s else startDirect ch src dst size set s)
    split
    · exact violation_inv h
    · exact command_inv _ _ _ h
  case irqHandler ch => exact execIrqHandler_inv ch h
  case nLinS | n2dS | nLinD | n2dD => exact execNode_inv _ _ h
  case linkLoad ch => exact execLinkLoad_inv ch h
  case aGrant ch => exact execAGrant_inv ch h
  case eStart ch => exact execEStart_inv ch h
  case eBlockEnd ch => exact execEBlockEnd_inv ch h
  case eComplete ch => exact execEComplete_inv ch h
  case eSuspAck ch => exact execESuspAck_inv ch h
  case eRaiseTo => exact outInv_ite h fun _ => inv_onChan h (chRaise_inv flagTO)
  case eRaiseDte =>
    exact outInv_ite h fun hen => dataStep_inv_of_enabled h (Bool.and_eq_true _ _ ▸ hen).1
  case eRaiseUle =>
    exact outInv_ite h fun hen => linkStep_inv_of_enabled h (Bool.and_eq_true _ _ ▸ hen).1
  case eRaiseUse =>
    refine outInv_ite h fun hen => linkStep_inv_of_enabled h ?_
    simp only [Bool.and_eq_true] at hen
    exact hen.1.1
  case eData => exact takeData_inv _ h
  case eLink => exact takeLink_inv _ h
  -- every other row is one `command`: the host commands with a channel, the micro-operations and the link words
  all_goals exact command_inv _ _ _ h

theorem issue_inv (p : Packet) (h : Inv s) : OutInv (issue p s) := by
  unfold issue
  split
  · exact exec_inv _ h
  · exact violation_inv h

theorem handlerTurn_inv (h : Inv s) : OutInv (handlerTurn s) := by
  unfold handlerTurn
  split
  · exact h
  · split
    · exact exec_inv _ h
    · split
      · exact issue_inv _ (inv_congr h rfl rfl rfl)
      · exact runHost_inv _ h

/-- Every turn keeps the invariant. -/
theorem runTurn_inv (turn : Turn) (h : Inv s) : OutInv (runTurn turn s) := by
  cases turn with
  | issue p q =>
    dsimp only [runTurn]; split
    · exact issue_inv p (inv_congr h rfl rfl rfl)
    · exact h
  | app q =>
    dsimp only [runTurn]; split
    · exact runHost_inv _ (inv_congr h rfl rfl rfl)
    · exact h
  | store a v => exact outInv_ite h fun _ => ⟨h.cfg, memWrite_wf _ _ v a.isLt h.mem, h.chans⟩
  | node a n q =>
    dsimp only [runTurn]; split
    · exact runHost_inv _ (inv_congr h rfl rfl rfl)
    · exact h
  | irq ch =>
    show Inv (takeInterrupt ch s)
    rcases takeInterrupt_cases ch s with htake | ⟨-, -, -, htake⟩ <;> rw [htake]
    · exact h
    · exact inv_congr h rfl rfl rfl
  | isr q => exact handlerTurn_inv (inv_congr h rfl rfl rfl)
  | grant ch =>
    dsimp only [runTurn, grant]; split <;> exact exec_inv _ h
  | ack ch => exact exec_inv (.eSuspAck ch) h
  | overrun ch => exact exec_inv (.eRaiseTo ch) h
  | tick => exact inv_congr h rfl rfl rfl
  | pins ch req trig ovr =>
    exact inv_onChan h fun hc => ChannelInv_congr hc rfl rfl rfl rfl rfl rfl rfl rfl rfl

theorem fetchTurn_inv (h : Inv s) : Inv (fetchTurn s).2 := by
  unfold fetchTurn
  split <;> exact inv_congr h rfl rfl rfl

end States

/-- Settles O7: the turn is fetched, and every turn keeps the invariant. -/
theorem stepKeepsInv : Obligations.StepKeepsInv := by
  unfold Obligations.StepKeepsInv
  intro s t h hstep
  have hout : OutInv (step s) := runTurn_inv _ (fetchTurn_inv h)
  rw [hstep] at hout
  exact hout

end Sys2Proof.Preservation
end

section
/-! Link words and the link pointer (10_state.md R28, R30; 30_encoding.md R104, R105): a link word keeps its mask and
its address bits in every well-formed layout, and decoding drops no bit of it (O5). -/

namespace Sys2Proof.LinkWord

open Sys2Proof.Machine

section Words

variable {L : Layout}

/-! ## Words bit by bit -/

/-- A word has no bit outside a mask. -/
theorem and_not_eq_zero_iff {x y : Word} : x &&& ~~~y = 0 ↔ ∀ j, x.getLsbD j = true → y.getLsbD j = true := by
  refine ⟨fun h j hx => ?_, fun h => BitVec.eq_of_getLsbD_eq fun j hj => ?_⟩
  · have hbit := congrArg (BitVec.getLsbD · j) h
    simpa [hx, BitVec.lt_of_getLsbD hx] using hbit
  · simpa [hj] using h j

theorem ofBool_getLsbD_zero (b : Bool) : (Word.ofBool b).getLsbD 0 = b := by cases b <;> rfl

/-- Bit `j` of a word after writes of fields that do not hold it. -/
theorem insFields_getLsbD_of_not {fs : List (Fld × Word)} {w : Word} {j : Nat}
    (h : ∀ p ∈ fs, ¬ (p.1.lo L ≤ j ∧ j < p.1.lo L + p.1.width L)) :
    (insFields L fs w).getLsbD j = w.getLsbD j := by
  induction fs generalizing w with
  | nil => rfl
  | cons p fs ih =>
    obtain ⟨hp, hfs⟩ := List.forall_mem_cons.mp h
    calc (insFields L fs (p.1.ins L p.2 w)).getLsbD j
        = (p.1.ins L p.2 w).getLsbD j := ih hfs
      _ = w.getLsbD j := by rw [Fld.ins_getLsbD, if_neg fun hj => hp ⟨hj.1, hj.2.1⟩]

/-- Bit `j` of a word after writes of different fields of one register, one of which holds it. -/
theorem insFields_getLsbD_of_mem (hL : L.wf = true) {r : Reg} {fs : List (Fld × Word)} {f : Fld} {v w : Word}
    {j : Nat} (hreg : ∀ p ∈ fs, p.1.reg = r) (hdiff : (fs.map Prod.fst).Nodup) (hmem : (f, v) ∈ fs)
    (hlo : f.lo L ≤ j) (hhi : j < f.lo L + f.width L) : (insFields L fs w).getLsbD j = v.getLsbD (j - f.lo L) := by
  induction fs generalizing w with
  | nil => simp at hmem
  | cons p fs ih =>
    obtain ⟨hp, hregs⟩ := List.forall_mem_cons.mp hreg
    obtain ⟨hnot, hdiffs⟩ := List.nodup_cons.mp hdiff
    rcases List.mem_cons.mp hmem with rfl | hmem
    · have hrest : ∀ q ∈ fs, ¬ (q.1.lo L ≤ j ∧ j < q.1.lo L + q.1.width L) := by
        intro q hq hj
        have hne : f ≠ q.1 := fun e => hnot (List.mem_map.mpr ⟨q, hq, e.symm⟩)
        have hdisj := Fld.disjoint_of_ne f q.1 hL (hp.trans (hregs q hq).symm) hne
        simp only [Fld.disjoint, Bool.or_eq_true, decide_eq_true_eq] at hdisj
        omega
      have hfit := f.lo_add_width_le hL
      calc (insFields L fs (f.ins L v w)).getLsbD j
          = (f.ins L v w).getLsbD j := insFields_getLsbD_of_not hrest
        _ = v.getLsbD (j - f.lo L) := by rw [Fld.ins_getLsbD, if_pos ⟨hlo, hhi, by omega⟩]
    · exact ih hregs hdiffs hmem

/-! ## The update bits (10_state.md R28) -/

/-- The update bit of a bank index. -/
def updateField (i : Fin 8) : Fld := Fld.updates.get i

theorem updateField_mem (i : Fin 8) : updateField i ∈ Fld.updates := List.get_mem ..

theorem updateField_reg (i : Fin 8) : (updateField i).reg = .cllr := by revert i; decide

theorem updateField_width (i : Fin 8) : (updateField i).width L = 1 := by fin_cases i <;> rfl

/-- The writes that `updWord` is made of. -/
def updateWrites (m : BitVec 8) : List (Fld × Word) :=
  (List.finRange 8).map fun i => (updateField i, .ofBool (m.getLsbD i))

theorem updWord_eq (L : Layout) (m : BitVec 8) : updWord L m = insFields L (updateWrites m) 0 := rfl

theorem updateWrites_reg (m : BitVec 8) : ∀ p ∈ updateWrites m, p.1.reg = .cllr := by
  intro p hp
  obtain ⟨i, -, rfl⟩ := List.mem_map.mp hp
  exact updateField_reg i

theorem updateWrites_nodup (m : BitVec 8) : ((updateWrites m).map Prod.fst).Nodup := by
  have hfields : (updateWrites m).map Prod.fst = (List.finRange 8).map updateField := by simp [updateWrites]
  rw [hfields]
  decide

theorem updWord_getLsbD_lo (hL : L.wf = true) (m : BitVec 8) (i : Fin 8) :
    (updWord L m).getLsbD ((updateField i).lo L) = m.getLsbD i := by
  have hmem : (updateField i, Word.ofBool (m.getLsbD i)) ∈ updateWrites m :=
    List.mem_map_of_mem (f := fun i : Fin 8 => (updateField i, Word.ofBool (m.getLsbD i))) (List.mem_finRange i)
  have hwidth := updateField_width (L := L) i
  rw [updWord_eq, insFields_getLsbD_of_mem hL (updateWrites_reg m) (updateWrites_nodup m) hmem le_rfl (by omega),
    Nat.sub_self, ofBool_getLsbD_zero]

/-- The bits of `updWord` are the update bits that the mask names. -/
theorem updWord_getLsbD_iff (hL : L.wf = true) {m : BitVec 8} {j : Nat} :
    (updWord L m).getLsbD j = true ↔ ∃ i : Fin 8, (updateField i).lo L = j ∧ m.getLsbD i = true := by
  refine ⟨fun hbit => ?_, fun ⟨i, hj, hm⟩ => by rw [← hj, updWord_getLsbD_lo hL, hm]⟩
  by_cases hj : ∃ i : Fin 8, (updateField i).lo L = j
  · obtain ⟨i, rfl⟩ := hj
    exact ⟨i, rfl, by rw [← hbit, updWord_getLsbD_lo hL]⟩
  · have hnot : ∀ p ∈ updateWrites m, ¬ (p.1.lo L ≤ j ∧ j < p.1.lo L + p.1.width L) := by
      intro p hp hin
      obtain ⟨i, -, rfl⟩ := List.mem_map.mp hp
      have hwidth := updateField_width (L := L) i
      dsimp only at hin
      exact hj ⟨i, by omega⟩
    rw [updWord_eq, insFields_getLsbD_of_not hnot] at hbit
    simp at hbit

/-- The update bits lie above the address bits. -/
theorem updWord_getLsbD_low (hL : L.wf = true) (m : BitVec 8) {j : Nat} (hj : j < 16) :
    (updWord L m).getLsbD j = false := by
  rw [Bool.eq_false_iff, Ne, updWord_getLsbD_iff hL]
  rintro ⟨i, rfl, -⟩
  exact absurd (Fld.update_lo _ hL (updateField_mem i)) (by omega)

theorem linkUpd_getLsbD (L : Layout) (w : Word) (i : Fin 8) :
    (linkUpd L w).getLsbD i = w.getLsbD ((updateField i).lo L) := by
  unfold linkUpd
  fin_cases i <;> simp only [BitVec.getLsbD_append] <;> simp [updateField, Fld.updates, Fld.test]

/-! ## The address bits (30_encoding.md R105) -/

theorem la_mask (L : Layout) : Fld.la.mask L = 0x0000FFFC := by
  simp [Fld.mask, Fld.ones, Fld.lo, Fld.width, Fld.place]

theorem addrMask_getLsbD (j : Nat) : (0x0000FFFC : Word).getLsbD j = (decide (2 ≤ j) && decide (j < 16)) := by
  rw [← la_mask Layout.u5, Fld.mask_getLsbD]
  have hlo : Fld.la.lo Layout.u5 = 2 := rfl
  have hwidth : Fld.la.width Layout.u5 = 14 := rfl
  rw [hlo, hwidth, Bool.eq_iff_iff]
  simp only [Bool.and_eq_true, decide_eq_true_eq]
  omega

theorem linkAddr_getLsbD (a : Word) (j : Nat) :
    (linkAddr a).getLsbD j = (a.getLsbD j && (decide (2 ≤ j) && decide (j < 16))) := by
  rw [linkAddr, BitVec.getLsbD_and, addrMask_getLsbD]

theorem mkLink_getLsbD (L : Layout) (m : BitVec 8) (a : Word) (j : Nat) :
    (mkLink L m a).getLsbD j = ((updWord L m).getLsbD j || (linkAddr a).getLsbD j) := BitVec.getLsbD_or

/-! ## A link word and its parts -/

theorem linkUpd_mkLink (hL : L.wf = true) (m : BitVec 8) (a : Word) : linkUpd L (mkLink L m a) = m := by
  refine BitVec.eq_of_getLsbD_eq fun i hi => ?_
  have hlo := Fld.update_lo _ hL (updateField_mem ⟨i, hi⟩)
  have haddr : (linkAddr a).getLsbD ((updateField ⟨i, hi⟩).lo L) = false := by
    rw [linkAddr_getLsbD, decide_eq_false (by omega : ¬ (updateField ⟨i, hi⟩).lo L < 16), Bool.and_false,
      Bool.and_false]
  calc (linkUpd L (mkLink L m a)).getLsbD i
      = (mkLink L m a).getLsbD ((updateField ⟨i, hi⟩).lo L) := linkUpd_getLsbD L _ ⟨i, hi⟩
    _ = m.getLsbD i := by rw [mkLink_getLsbD, haddr, Bool.or_false, updWord_getLsbD_lo hL]

theorem linkAddr_mkLink (hL : L.wf = true) (m : BitVec 8) (a : Word) : linkAddr (mkLink L m a) = linkAddr a := by
  refine BitVec.eq_of_getLsbD_eq fun j _ => ?_
  rw [linkAddr_getLsbD, mkLink_getLsbD, linkAddr_getLsbD]
  by_cases hj : j < 16
  · rw [updWord_getLsbD_low hL m hj, Bool.false_or, Bool.and_assoc, Bool.and_self]
  · simp [hj]

theorem linkFieldBits_getLsbD_iff (hL : L.wf = true) {j : Nat} :
    (linkFieldBits L).getLsbD j = true ↔ (∃ i : Fin 8, (updateField i).lo L = j) ∨ (2 ≤ j ∧ j < 16) := by
  have hall (i : Fin 8) : (0b11111111#8).getLsbD i = true := by revert i; decide
  rw [linkFieldBits, BitVec.getLsbD_or, Bool.or_eq_true, la_mask, addrMask_getLsbD, updWord_getLsbD_iff hL]
  simp [hall]

theorem mkLink_no_other_bit (hL : L.wf = true) (m : BitVec 8) (a : Word) :
    mkLink L m a &&& ~~~(linkFieldBits L) = 0 := by
  refine and_not_eq_zero_iff.mpr fun j hbit => (linkFieldBits_getLsbD_iff hL).mpr ?_
  rw [mkLink_getLsbD, Bool.or_eq_true, updWord_getLsbD_iff hL, linkAddr_getLsbD] at hbit
  rcases hbit with ⟨i, hj, -⟩ | haddr
  · exact .inl ⟨i, hj⟩
  · simp only [Bool.and_eq_true, decide_eq_true_eq] at haddr
    exact .inr haddr.2

/-- A word with no bit outside the fields is the link word of its parts. -/
theorem mkLink_linkUpd (hL : L.wf = true) {w : Word} (h : w &&& ~~~(linkFieldBits L) = 0) :
    mkLink L (linkUpd L w) w = w := by
  refine BitVec.eq_of_getLsbD_eq fun j _ => Bool.eq_iff_iff.mpr ?_
  rw [mkLink_getLsbD, Bool.or_eq_true, updWord_getLsbD_iff hL, linkAddr_getLsbD]
  constructor
  · rintro (⟨i, rfl, hbit⟩ | hbit)
    · rwa [linkUpd_getLsbD] at hbit
    · exact (Bool.and_eq_true _ _ ▸ hbit).1
  · intro hbit
    rcases (linkFieldBits_getLsbD_iff hL).mp (and_not_eq_zero_iff.mp h j hbit) with ⟨i, rfl⟩ | hj
    · exact .inl ⟨i, rfl, by rwa [linkUpd_getLsbD]⟩
    · exact .inr (by simp [hbit, hj])

/-! ## The link pointer (10_state.md R30) -/

theorem getLsbD_of_aligned {a : Word} (h : a.toNat % 4 = 0) {j : Nat} (hj : j < 2) : a.getLsbD j = false := by
  have hbit := Nat.testBit_mod_two_pow a.toNat 2 j
  rw [show 2 ^ 2 = 4 from rfl, h, decide_eq_true hj, Bool.true_and, Nat.zero_testBit] at hbit
  exact hbit.symm

/-- The upper half of a word-aligned address and its address bits are the address. -/
theorem window_or_linkAddr {a : Word} (h : a.toNat % 4 = 0) :
    (a.extractLsb' 16 16 ++ (0 : BitVec 16)) ||| linkAddr a = a := by
  refine BitVec.eq_of_getLsbD_eq fun j hj => ?_
  rw [BitVec.getLsbD_or, linkAddr_getLsbD, BitVec.getLsbD_append, BitVec.getLsbD_extractLsb']
  by_cases hhigh : j < 16
  · by_cases hlow : 2 ≤ j
    · simp [hhigh, hlow]
    · simp [hhigh, getLsbD_of_aligned h (by omega : j < 2)]
  · have hoff : 16 + (j - 16) = j := by omega
    simp [hhigh, hoff, show j - 16 < 16 by omega]

theorem linkPtr_mkLink (hL : L.wf = true) {c : Channel} {m : BitVec 8} {a : Word} (ha : a.toNat % 4 = 0)
    (hcllr : c.cllr = mkLink L m a) (hlba : c.lba = a.extractLsb' 16 16) : linkPtr c = a := by
  rw [linkPtr, hcllr, hlba, linkAddr_mkLink hL, window_or_linkAddr ha]

/-! ## Decoding and encoding (30_encoding.md R104, R105) -/

theorem laWord_extract (w : Word) : laWord (w.extractLsb' 2 14) = linkAddr w := by
  refine BitVec.eq_of_getLsbD_eq fun j hj => ?_
  rw [laWord, BitVec.getLsbD_shiftLeft, BitVec.getLsbD_setWidth, BitVec.getLsbD_extractLsb', linkAddr_getLsbD]
  by_cases hlow : 2 ≤ j
  · by_cases hhigh : j < 16
    · have hoff : 2 + (j - 2) = j := by omega
      simp [hlow, hhigh, hoff, hj, show ¬ j ≤ 1 by omega, show j - 2 < 14 by omega, show j - 2 < 32 by omega]
    · simp [hhigh, show ¬ j - 2 < 14 by omega]
  · simp [hlow, show j < 2 by omega]

/-- The word that an instruction of the mask and the address bits of `w` encodes is `w`. -/
theorem linkWordOf_linkUpd (hL : L.wf = true) {w : Word} (h : w &&& ~~~(linkFieldBits L) = 0) :
    linkWordOf L (linkUpd L w) (w.extractLsb' 2 14) = w := by
  rw [linkWordOf, laWord_extract]
  exact mkLink_linkUpd hL h

/-- A mask with `U_CLLR` is that bit and the other seven. -/
theorem one_append_extract {m : BitVec 8} (h : m.getLsbD 7 = true) : 1#1 ++ m.extractLsb' 0 7 = m := by
  revert m; decide

/-- One case per form of a link word: each is encoded by the mask and the address bits of the word. -/
theorem encode_decodeLinkWord {k : Cfg} (hk : k.wf = true) {ch : ChId} {w : Word} {i : Instr}
    (hw : w &&& ~~~(linkFieldBits k.layout) = 0) (hdec : decodeLinkWord k ch w = .ok i) :
    encode k i = some (.linkWord ch w) := by
  have hword := linkWordOf_linkUpd (Cfg.wf_layout hk) hw
  unfold decodeLinkWord at hdec
  dsimp only at hdec
  rw [if_neg (not_not_intro hw)] at hdec
  split_ifs at hdec with hend hlin h2d hcllr <;> cases hdec
  · rw [hend]; rfl
  · rw [encode, ← hlin, hword]
  · rw [encode, ← h2d, hword]
  · rw [encode, one_append_extract hcllr, hword]
  · rw [encode, hword]

end Words

/-- Settles O5: a link word bit by bit, LAYOUT_U5 by evaluation, the link pointer and the codec by the parts of a link
word. -/
theorem linkWordFields : Obligations.LinkWordFields := by
  unfold Obligations.LinkWordFields
  refine ⟨fun L m a hL => ⟨?_, ?_, ?_⟩, by decide +kernel, fun L c m a hL ha hcllr hlba => ?_,
    fun k ch w i hk hw hdec => ?_⟩
  · exact linkUpd_mkLink hL m a
  · exact linkAddr_mkLink hL m a
  · exact mkLink_no_other_bit hL m a
  · exact linkPtr_mkLink hL ha hcllr hlba
  · exact encode_decodeLinkWord hk hw hdec

end Sys2Proof.LinkWord
end

section
/-! The environment and the stores of the host (10_state.md R46, R50, R52; 20_memory.md R88): the turns that neither
issue a command nor move the engine (O50). -/

namespace Sys2Proof.Environment

open Sys2Proof.Machine Sys2Proof.Claims Sys2Proof.Scope

/-! ## Words stored one after the other (20_memory.md R76) -/

theorem wordAddr_zero (a : Word) : wordAddr a 0 = a := by simp [wordAddr]

theorem wordAddr_succ (a : Word) (i : Nat) : wordAddr a (i + 1) = wordAddr (a + 4) i := by
  unfold wordAddr
  bv_omega

/-- The distance from the second word is one word less than from the first, as long as it does not run below it. -/
theorem toNat_sub_add_four {a x : Word} (h : 4 ≤ (x - a).toNat) : (x - (a + 4)).toNat = (x - a).toNat - 4 := by
  bv_omega

/-- A byte at a distance of a word or more is no byte of that word. -/
theorem memRead_writeWord_of_le (m : Memory) (a w x : Word) (h : 4 ≤ (x - a).toNat) :
    memRead (writeWord m a w) x.toNat = memRead m x.toNat := by
  apply memRead_writeWord_ne <;> bv_omega

/-- A byte outside the stored words reads as before. -/
theorem memRead_writeWords_of_le (m : Memory) (a : Word) (ws : List Word) (x : Word)
    (h : 4 * ws.length ≤ (x - a).toNat) : memRead (writeWords m a ws) x.toNat = memRead m x.toNat := by
  induction ws generalizing m a with
  | nil => rfl
  | cons w ws ih =>
    rw [List.length_cons] at h
    have hfirst : 4 ≤ (x - a).toNat := by omega
    calc memRead (writeWords (writeWord m a w) (a + 4) ws) x.toNat
        = memRead (writeWord m a w) x.toNat := ih _ _ (by rw [toNat_sub_add_four hfirst]; omega)
      _ = memRead m x.toNat := memRead_writeWord_of_le m a w x hfirst

/-- Words stored behind a word that they do not run round to leave it as it was. -/
theorem readWord_writeWords_behind (m : Memory) (a : Word) (ws : List Word) (h : 4 * ws.length < 2 ^ 32 - 4) :
    readWord (writeWords m (a + 4) ws) a = readWord m a := by
  have hbyte (x : Word) (hx : (x - a).toNat < 4) :
      memRead (writeWords m (a + 4) ws) x.toNat = memRead m x.toNat := by
    apply memRead_writeWords_of_le
    bv_omega
  unfold readWord
  rw [hbyte a (by bv_omega), hbyte (a + 1) (by bv_omega), hbyte (a + 2) (by bv_omega), hbyte (a + 3) (by bv_omega)]

/-- Stored words read back (20_memory.md R71, R76). -/
theorem readWord_writeWords (m : Memory) (a : Word) (ws : List Word) (hm : Memory.wf m = true)
    (hlen : 4 * ws.length < 2 ^ 32) {j : Nat} (hj : j < ws.length) :
    readWord (writeWords m a ws) (wordAddr a j) = imgWord ws j := by
  induction ws generalizing m a j with
  | nil => simp at hj
  | cons w ws ih =>
    rw [List.length_cons] at hj hlen
    have hwf := writeWord_wf m a w hm
    cases j with
    | zero =>
      rw [wordAddr_zero]
      calc readWord (writeWords (writeWord m a w) (a + 4) ws) a
          = readWord (writeWord m a w) a := readWord_writeWords_behind _ _ _ (by omega)
        _ = w := readWord_writeWord_same m a w hm
    | succ j =>
      rw [wordAddr_succ]
      exact ih _ _ hwf (by omega) (by omega)

/-! ## The store of a filled node (10_state.md R46) -/

theorem writeOps_cons (a w : Word) (ws : List Word) :
    writeOps a (w :: ws) = .memWrite a w :: writeOps (a + 4) ws := by
  simp [writeOps, List.range_succ_eq_map, Function.comp_def, wordAddr_zero, wordAddr_succ, imgWord]

theorem runOp_memWrite (a w : Word) (s : State) :
    runOp (.memWrite a w) s = .go [] { s with mem := writeWord s.mem a w } := rfl

theorem runOp_tag (a : Word) (k : Kind) (s : State) :
    runOp (.tag a k) s = .go [] { s with nodeKinds := putKey s.nodeKinds a k } := rfl

/-- The writes of consecutive words, one host operation each. -/
theorem runOps_writeOps (a : Word) (ws : List Word) (s : State) :
    runOps ws.length (writeOps a ws) s = .next ([], { s with mem := writeWords s.mem a ws }) := by
  induction ws generalizing a s with
  | nil => rfl
  | cons w ws ih =>
    rw [writeOps_cons, List.length_cons, runOps_go (runOp_memWrite a w s), List.nil_append, ih]
    rfl

/-- A full node stores at most the eight registers of a bank (10_state.md R21). -/
theorem nodeWordList_length (k : Cfg) (n : Node) : (nodeWordList k n).length ≤ 8 := by
  rw [nodeWordList, List.length_map]
  exact (List.length_filter_le ..).trans (List.length_range).le

/-- A node is stored whole in a turn of nine operations: its tag and up to eight words. -/
theorem runHost_storeNode {s : State} (a : Word) (n : Node) (hp : s.pending = []) (hq : 9 ≤ s.quantum) :
    runHost (.tag a (nodeKind n) :: writeOps a (nodeWordList s.cfg n)) s =
      .next { s with
        mem := writeWords s.mem a (nodeWordList s.cfg n)
        nodeKinds := putKey s.nodeKinds a (nodeKind n) } := by
  have hlen := nodeWordList_length s.cfg n
  refine runHost_done (n := (nodeWordList s.cfg n).length + 1) hp (by omega) ?_ rfl rfl
  rw [runOps_go (runOp_tag a (nodeKind n) s), List.nil_append, runOps_writeOps]

/-! ## Turns of HOST-APP while it is held (00_scope.md R12; 60_exceptions.md R357) -/

theorem appIdle_eq_false {s : State} (h : Held s) : s.appIdle = false := by
  rcases h with h | h
  · simp [State.appIdle, Option.isNone_eq_false_iff.mpr h]
  · simp [State.appIdle, List.isEmpty_eq_false_iff.mpr h]

theorem not_held_iff {s : State} : ¬ Held s ↔ s.isr = none ∧ s.app.todo = [] := by
  simp [Held]

theorem appIdle_eq_true {s : State} (h : ¬ Held s) : s.appIdle = true := by
  obtain ⟨hisr, htodo⟩ := not_held_iff.mp h
  simp [State.appIdle, hisr, htodo]

theorem pending_eq_nil {s : State} (h : ¬ Held s) : s.pending = [] := by
  obtain ⟨hisr, htodo⟩ := not_held_iff.mp h
  simp [State.pending, hisr, htodo]

theorem runTurn_store {s : State} (a : Word) (v : Byte) (h : ¬ Held s) :
    runTurn (.store a v) s = .next { s with mem := memWrite s.mem a.toNat v } := by
  simp [runTurn, appIdle_eq_true h]

theorem runTurn_store_held {s : State} (a : Word) (v : Byte) (h : Held s) : runTurn (.store a v) s = .next s := by
  simp [runTurn, appIdle_eq_false h]

theorem runTurn_node {s : State} (a : Word) (n : Node) {q : Nat} (h : ¬ Held s) (hq : 9 ≤ q) :
    runTurn (.node a n q) s =
      .next { s with
        quantum := q
        mem := writeWords s.mem a (nodeWordList s.cfg n)
        nodeKinds := putKey s.nodeKinds a (nodeKind n) } := by
  simp only [runTurn, appIdle_eq_true h, if_true]
  exact runHost_storeNode (s := { s with quantum := q }) a n (pending_eq_nil h) hq

theorem runTurn_node_held {s : State} (a : Word) (n : Node) (q : Nat) (h : Held s) :
    runTurn (.node a n q) s = .next s := by
  simp [runTurn, appIdle_eq_false h]

/-- Settles O50: one clause per turn, each the turn's own equation; a stored byte and a stored node by the laws of
memory. -/
theorem environmentTurns : Obligations.EnvironmentTurns := by
  unfold Obligations.EnvironmentTurns
  intro s rest hmem
  refine ⟨?tick, ?pins, ?store, ?node⟩
  case tick => exact fun hagenda => step_of_agenda hagenda
  case pins => exact fun n req trig ovr hagenda => step_of_agenda hagenda
  case store =>
    intro a v hagenda
    rw [step_of_agenda hagenda]
    refine ⟨fun hfree => ⟨memWrite s.mem a.toNat v, runTurn_store a v hfree, ?_, fun x hx => ?_⟩,
      fun hheld => runTurn_store_held a v hheld⟩
    · exact memRead_memWrite_same s.mem a.toNat v hmem
    · exact memRead_memWrite_ne s.mem a.toNat x v hx
  case node =>
    intro a n q hagenda
    rw [step_of_agenda hagenda]
    have hlen := nodeWordList_length s.cfg n
    refine ⟨fun hfree hq => ⟨writeWords s.mem a (nodeWordList s.cfg n), runTurn_node a n hfree hq, fun j hj => ?_,
      fun x hx => ?_⟩, fun hheld => runTurn_node_held a n q hheld⟩
    · exact readWord_writeWords s.mem a _ hmem (by omega) hj
    · exact memRead_writeWords_of_le s.mem a _ x hx

end Sys2Proof.Environment
end

section
/-! The frame of the engine (20_memory.md R85; 40_register_file.md R144; 60_exceptions.md R373): a row moves registers
of its own channel that the host does not own, and a data step stores into its destination items only (O51). -/

namespace Sys2Proof.EngineFrames

open Sys2Proof.Machine Sys2Proof.Claims

/-! ## What of a channel the engine never writes -/

/-- The components of a channel that belong to the host and the platform: the handle, CLBAR, the interrupt enables, the
priority, the security attributes, the inputs and the kind. -/
structure HostPart where
  h : Handle
  lba : BitVec 16
  ie : FlagSet
  prio : Word
  secAttr : SecAttr
  pins : Pins
  twoD : Bool

/-- The host's part of a channel. -/
def hostPart (c : Channel) : HostPart := ⟨c.h, c.lba, c.ccr.ie, c.ccr.prio, c.secAttr, c.pins, c.twoD⟩

theorem hostPart_eq_iff {c d : Channel} :
    hostPart d = hostPart c ↔ d.h = c.h ∧ d.lba = c.lba ∧ d.ccr.ie = c.ccr.ie ∧ d.ccr.prio = c.ccr.prio ∧
      d.secAttr = c.secAttr ∧ d.pins = c.pins ∧ d.twoD = c.twoD := by
  simp only [hostPart, HostPart.mk.injEq]

@[simp] theorem hostPart_chRaise (f : FlagSet) (c : Channel) : hostPart (chRaise f c) = hostPart c := rfl
@[simp] theorem hostPart_chRaiseFatal (f : FlagSet) (c : Channel) : hostPart (chRaiseFatal f c) = hostPart c := rfl
@[simp] theorem hostPart_chAck (c : Channel) : hostPart (chAck c) = hostPart c := rfl
@[simp] theorem hostPart_beginNode (k : Cfg) (c : Channel) : hostPart (beginNode k c) = hostPart c := rfl
@[simp] theorem hostPart_beginRepeat (k : Cfg) (c : Channel) : hostPart (beginRepeat k c) = hostPart c := rfl
@[simp] theorem hostPart_saveReload (L : Layout) (c : Channel) : hostPart (saveReload L c) = hostPart c := rfl
@[simp] theorem hostPart_incAddresses (L : Layout) (nr nw : Nat) (c : Channel) :
    hostPart (incAddresses L nr nw c) = hostPart c := rfl
@[simp] theorem hostPart_setBndt (L : Layout) (n : Nat) (c : Channel) : hostPart (setBndt L n c) = hostPart c := rfl
@[simp] theorem hostPart_setBrc (L : Layout) (n : Nat) (c : Channel) : hostPart (setBrc L n c) = hostPart c := rfl

/-- CLBAR is the only link register of the host's part (40_register_file.md R144). -/
theorem hostPart_linkWrite (L : Layout) (c : Channel) {r : Reg} (w : Word) (hr : r ≠ .clbar) :
    hostPart (linkWrite L c r w) = hostPart c := by
  cases r
  case clbar => exact absurd rfl hr
  case ctr3 => rw [linkWrite_ctr3]; rfl
  case cbr2 => rw [linkWrite_cbr2]; rfl
  all_goals rfl

@[simp] theorem hostPart_engineStart (k : Cfg) (c : Channel) : hostPart (engineStart k c) = hostPart c := by
  unfold engineStart
  dsimp only
  split_ifs <;> rfl

@[simp] theorem hostPart_engineComplete (L : Layout) (c : Channel) : hostPart (engineComplete L c) = hostPart c := by
  unfold engineComplete
  dsimp only
  split <;> rfl

@[simp] theorem hostPart_blockOffsets (L : Layout) (c : Channel) : hostPart (blockOffsets L c) = hostPart c := by
  unfold blockOffsets
  split <;> rfl

@[simp] theorem hostPart_blockEvent (L : Layout) (c : Channel) : hostPart (blockEvent L c) = hostPart c := by
  unfold blockEvent
  split
  · rfl
  · split <;> rfl
  · split <;> rfl
  · rfl

@[simp] theorem hostPart_blockEnd (k : Cfg) (c : Channel) : hostPart (blockEnd k c) = hostPart c := by
  unfold blockEnd
  dsimp only
  split_ifs
  · simp
  · exact (hostPart_blockEvent ..).trans (hostPart_blockOffsets ..)
  · simp

@[simp] theorem hostPart_updateBndt (L : Layout) (g : Nat) (c : Channel) :
    hostPart (updateBndt L g c) = hostPart c := by
  unfold updateBndt
  dsimp only
  split <;> rfl

@[simp] theorem hostPart_srcBurstEnd (k : Cfg) (c : Channel) : hostPart (srcBurstEnd k c) = hostPart c := by
  unfold srcBurstEnd
  split <;> rfl

@[simp] theorem hostPart_dstBurstEnd (k : Cfg) (c : Channel) : hostPart (dstBurstEnd k c) = hostPart c := by
  unfold dstBurstEnd
  split <;> rfl

@[simp] theorem hostPart_updateAddresses (k : Cfg) (nr nw : Nat) (c : Channel) :
    hostPart (updateAddresses k nr nw c) = hostPart c := by
  simp [updateAddresses]

@[simp] theorem hostPart_advance (k : Cfg) (g nw : Nat) (c : Channel) : hostPart (advance k g nw c) = hostPart c := by
  unfold advance
  dsimp only
  split <;> simp

/-- A fetch selects none of the host's registers (40_register_file.md R150). -/
theorem clbar_notMem_fetchRegs (L : Layout) (c : Channel) : Reg.clbar ∉ fetchRegs L c := by
  have hbank (n : Nat) : bankReg n ≠ .clbar := by unfold bankReg; split <;> nofun
  simp [fetchRegs, hbank]

theorem hostPart_loadWords (L : Layout) (c : Channel) {ws : List (Reg × Word)} (h : ∀ p ∈ ws, p.1 ≠ .clbar) :
    hostPart (loadWords L c ws) = hostPart c := by
  induction ws generalizing c with
  | nil => rfl
  | cons p ws ih =>
    calc hostPart (loadWords L c (p :: ws))
        = hostPart (linkWrite L c p.1 p.2) := ih _ fun q hq => h q (List.mem_cons_of_mem _ hq)
      _ = hostPart c := hostPart_linkWrite L c p.2 (h p List.mem_cons_self)

theorem hostPart_linkLoad {i : Nat} {s : State} {c : Channel} (h : linkLoad i s = some c) :
    hostPart c = hostPart (s.chan i) := by
  obtain ⟨-, -, rfl⟩ := linkLoad_some h
  refine hostPart_loadWords _ _ fun p hp hclbar => clbar_notMem_fetchRegs s.cfg.layout (s.chan i) ?_
  exact hclbar ▸ (List.of_mem_zip hp).1

@[simp] theorem hostPart_afterLoad (k : Cfg) (loads : Bool) (c : Channel) :
    hostPart (afterLoad k loads c) = hostPart c := by
  unfold afterLoad
  extract_lets _ due _ linked node
  have hlinked : hostPart linked = hostPart c := by
    dsimp only [linked, due]
    split <;> rfl
  have hnode : hostPart node = hostPart c := by
    dsimp only [node]
    split <;> simpa using hlinked
  split_ifs <;> exact hnode

/-! ## Steps that move one channel -/

/-- From `s` to `t` one channel moved outside the host's part, after accesses to memory; all else of the state
stands. -/
structure MovesChannel (i : Nat) (s t : State) : Prop where
  rest : t = { s with chans := t.chans, mem := t.mem, trace := t.trace, fresh := t.fresh }
  chans : ∃ c, hostPart c = hostPart (s.chan i) ∧ t.chans = s.chans.set i c

section Moves

variable {i : Nat} {s t : State}

theorem MovesChannel.refl (i : Nat) (s : State) : MovesChannel i s s :=
  ⟨rfl, s.chan i, rfl, congrArg State.chans (State.setChan_self s i).symm⟩

/-- Accesses, then the channel written. -/
theorem movesChannel_of_onlyAccesses {c : Channel} (hacc : OnlyAccesses s t) (hc : hostPart c = hostPart (s.chan i)) :
    MovesChannel i s (t.setChan i c) := by
  refine ⟨?_, c, hc, congrArg (List.set · i c) hacc.chans⟩
  rw [hacc.rest]
  rfl

theorem movesChannel_setChan {c : Channel} (hc : hostPart c = hostPart (s.chan i)) : MovesChannel i s (s.setChan i c) :=
  movesChannel_of_onlyAccesses (OnlyAccesses.refl s) hc

theorem MovesChannel.cfg (h : MovesChannel i s t) : t.cfg = s.cfg := by rw [h.rest]
theorem MovesChannel.queues (h : MovesChannel i s t) : t.queues = s.queues := by rw [h.rest]
theorem MovesChannel.nodeKinds (h : MovesChannel i s t) : t.nodeKinds = s.nodeKinds := by rw [h.rest]
theorem MovesChannel.tick (h : MovesChannel i s t) : t.tick = s.tick := by rw [h.rest]
theorem MovesChannel.app (h : MovesChannel i s t) : t.app = s.app := by rw [h.rest]
theorem MovesChannel.isr (h : MovesChannel i s t) : t.isr = s.isr := by rw [h.rest]
theorem MovesChannel.irqReply (h : MovesChannel i s t) : t.irqReply = s.irqReply := by rw [h.rest]
theorem MovesChannel.agenda (h : MovesChannel i s t) : t.agenda = s.agenda := by rw [h.rest]
theorem MovesChannel.quantum (h : MovesChannel i s t) : t.quantum = s.quantum := by rw [h.rest]

theorem MovesChannel.chan_ne (h : MovesChannel i s t) {j : Nat} (hj : j ≠ i) : t.chan j = s.chan j := by
  obtain ⟨c, -, hchans⟩ := h.chans
  rw [← State.chan_setChan_ne s i j c hj.symm, State.chan, State.chan, hchans]
  rfl

theorem MovesChannel.length (h : MovesChannel i s t) : t.chans.length = s.chans.length := by
  obtain ⟨c, -, hchans⟩ := h.chans
  rw [hchans, List.length_set]

/-- The host's part of the moved channel; a channel out of range reads as before. -/
theorem MovesChannel.hostPart_chan (h : MovesChannel i s t) : hostPart (t.chan i) = hostPart (s.chan i) := by
  obtain ⟨c, hc, hchans⟩ := h.chans
  have ht : t.chan i = (s.setChan i c).chan i := by rw [State.chan, State.chan, hchans]; rfl
  by_cases hi : i < s.chans.length
  · rw [ht, State.chan_setChan_same s i c hi, hc]
  · rw [ht, State.setChan, List.set_eq_of_length_le (Nat.le_of_not_lt hi)]

theorem dataStep_movesChannel (i : Nat) (s : State) : MovesChannel i s (dataStep i s) := by
  rcases dataStep_cases i s with ⟨-, h⟩ | ⟨nw, -, h⟩ <;> rw [h]
  · exact movesChannel_of_onlyAccesses (dataAccess_only i s) (hostPart_chRaiseFatal ..)
  · exact movesChannel_of_onlyAccesses (dataAccess_only i s) (hostPart_advance ..)

/-! ## The memory of a data step (45_channel_engine.md R308, R311) -/

/-- The source reads of a channel's data step. -/
def stepReads (i : Nat) (s : State) : Option (List Byte) × State :=
  let L := s.cfg.layout
  let c := s.chan i
  sourceReads i (srcItem L c)
    (accessAddrs c.csar (Fld.srcInc.test L c.ctr1) (srcItem L c) (stepBytes L c / srcItem L c)) [] s

/-- The destination writes of a data step that read `bytes`. -/
def stepWrites (L : Layout) (c : Channel) (bytes : List Byte) : List (Word × List Byte) :=
  let its := items (dstItem L c) (transform L c bytes)
  (accessAddrs c.cdar (Fld.dstInc.test L c.ctr1) (dstItem L c) its.length).zip its

/-- The address belongs to none of the destination items of a data step that read `bytes`. -/
def OutsideItems (L : Layout) (c : Channel) (bytes : List Byte) (x : Word) : Prop :=
  ∀ k < (transform L c bytes).length / dstItem L c, ∀ j < dstItem L c,
    x ≠ (if Fld.dstInc.test L c.ctr1 then c.cdar + BitVec.ofNat 32 (k * dstItem L c) else c.cdar) + BitVec.ofNat 32 j

theorem stepReads_mem (i : Nat) (s : State) : (stepReads i s).2.mem = s.mem := (sourceReads_only ..).2

/-- A write of a data step is one of its destination items. -/
theorem exists_item_of_mem_stepWrites {L : Layout} {c : Channel} {bytes : List Byte} {p : Word × List Byte}
    (hp : p ∈ stepWrites L c bytes) :
    ∃ k < (transform L c bytes).length / dstItem L c,
      p.1 = (if Fld.dstInc.test L c.ctr1 then c.cdar + BitVec.ofNat 32 (k * dstItem L c) else c.cdar) ∧
      p.2.length ≤ dstItem L c := by
  obtain ⟨k, hk, rfl⟩ := List.getElem_of_mem hp
  simp only [stepWrites, items, accessAddrs, List.length_zip, List.length_map, List.length_range, min_self] at hk
  exact ⟨k, hk, by simp [stepWrites, accessAddrs], by simp [stepWrites, items]⟩

/-- The writes follow the reads, unless a read is refused (45_channel_engine.md R308, R321). -/
theorem dataAccess_state (i : Nat) (s : State) :
    (dataAccess i s).2 = (stepReads i s).1.elim (stepReads i s).2 fun bytes =>
      (destWrites i (dstItem s.cfg.layout (s.chan i)) (stepWrites s.cfg.layout (s.chan i) bytes)
        (stepReads i s).2).2 := by
  unfold dataAccess
  dsimp only
  split
  · rename_i s1 hrefused
    have hreads : stepReads i s = (none, s1) := hrefused
    rw [hreads]
    rfl
  · rename_i bytes s1 hdone
    have hreads : stepReads i s = (some bytes, s1) := hdone
    rw [hreads]
    split <;> exact (congrArg Prod.snd ‹destWrites .. = _›).symm

/-- What a state's data step leaves of its memory, written for the memory `m` after it. -/
structure StoresItems (i : Nat) (s : State) (m : Memory) : Prop where
  outside : ∀ bytes, (stepReads i s).1 = some bytes → ∀ x : Word, OutsideItems s.cfg.layout (s.chan i) bytes x →
    memRead m x.toNat = memRead s.mem x.toNat
  refused : (stepReads i s).1 = none → m = s.mem

theorem storesItems_of_eq {m : Memory} (h : m = s.mem) : StoresItems i s m :=
  ⟨fun _ _ _ _ => h ▸ rfl, fun _ => h⟩

theorem dataAccess_storesItems (i : Nat) (s : State) : StoresItems i s (dataAccess i s).2.mem := by
  rw [dataAccess_state]
  refine ⟨fun bytes hreads x hx => ?_, fun hreads => ?_⟩
  · have hwrites : ∀ p ∈ stepWrites s.cfg.layout (s.chan i) bytes, ∀ j < p.2.length,
        x ≠ p.1 + BitVec.ofNat 32 j := by
      intro p hp j hj
      obtain ⟨k, hk, haddr, hlen⟩ := exists_item_of_mem_stepWrites hp
      rw [haddr]
      exact hx k hk j (hj.trans_le hlen)
    rw [hreads, Option.elim_some, destWrites_mem _ _ _ _ _ hwrites, stepReads_mem]
  · rw [hreads, Option.elim_none, stepReads_mem]

theorem dataStep_storesItems (i : Nat) (s : State) : StoresItems i s (dataStep i s).mem := by
  rcases dataStep_cases i s with ⟨-, h⟩ | ⟨nw, -, h⟩ <;> rw [h] <;> exact dataAccess_storesItems i s

/-! ## What a row of the engine can do -/

/-- Every byte of memory stands, and one channel moved outside the host's part. -/
structure MovesRegisters (i : Nat) (s t : State) : Prop extends MovesChannel i s t where
  mem : t.mem = s.mem

theorem movesRegisters_setChan {c : Channel} (hc : hostPart c = hostPart (s.chan i)) :
    MovesRegisters i s (s.setChan i c) := ⟨movesChannel_setChan hc, rfl⟩

theorem MovesRegisters.refl (i : Nat) (s : State) : MovesRegisters i s s := ⟨MovesChannel.refl i s, rfl⟩

theorem linkStep_movesRegisters (i : Nat) (s : State) : MovesRegisters i s (linkStep i s) := by
  rcases linkStep_cases i s with ⟨-, h⟩ | ⟨c, hload, h⟩ <;> rw [h]
  · exact movesRegisters_setChan (hostPart_chRaiseFatal ..)
  · exact movesRegisters_setChan ((hostPart_afterLoad ..).trans (hostPart_linkLoad hload))

/-- A step that is not enabled changes nothing (log 12). -/
theorem movesRegisters_ite {p : Prop} [Decidable p] (h : MovesRegisters i s t) :
    MovesRegisters i s (if p then t else s) := by
  split
  · exact h
  · exact MovesRegisters.refl i s

theorem takeLink_movesRegisters (i : Nat) (s : State) : MovesRegisters i s (takeLink i s) :=
  movesRegisters_ite (linkStep_movesRegisters i s)

theorem execNode_movesRegisters (ch : ChId) (upd : BitVec 8) (s : State) :
    MovesRegisters ch.toNat s (execNode ch upd s) :=
  movesRegisters_ite (takeLink_movesRegisters ch.toNat s)

end Moves

/-- The rows that are a data step, or may be one (log 13, log 14). -/
def dataRows (ch : ChId) : List Instr := [.eData ch, .aGrant ch, .eRaiseDte ch]

/-- What a row answers: registers of its channel moved, or the row is the channel's data step. -/
def RowOutcome (ch : ChId) (i : Instr) (s : State) : Out → Prop
  | .next t => MovesRegisters ch.toNat s t ∨ i ∈ dataRows ch ∧ t = dataStep ch.toNat s
  | _ => False

section Rows

variable {ch : ChId} {i : Instr} {s : State}

theorem takeData_outcome (hi : i ∈ dataRows ch) : RowOutcome ch i s (.next (takeData ch.toNat s)) := by
  rcases takeData_cases ch.toNat s with ⟨-, h⟩ | ⟨-, h⟩ <;> rw [h]
  · exact .inl (MovesRegisters.refl ch.toNat s)
  · exact .inr ⟨hi, rfl⟩

theorem execAGrant_outcome : RowOutcome ch (.aGrant ch) s (execAGrant ch s) := by
  unfold execAGrant
  split
  · exact .inl (takeLink_movesRegisters ch.toNat s)
  · exact takeData_outcome (by simp [dataRows])

theorem execERaiseDte_outcome : RowOutcome ch (.eRaiseDte ch) s (execERaiseDte ch s) := by
  unfold execERaiseDte
  split
  · exact .inr ⟨by simp [dataRows], rfl⟩
  · exact .inl (MovesRegisters.refl ch.toNat s)

theorem execLinkLoad_outcome : RowOutcome ch i s (execLinkLoad ch s) := by
  unfold execLinkLoad
  refine .inl (movesRegisters_ite ?_)
  split
  · exact movesRegisters_setChan (hostPart_chRaiseFatal ..)
  · exact movesRegisters_setChan (hostPart_linkLoad ‹_›)

/-- Every row of the engine answers. -/
theorem engineRow_outcome {upd : BitVec 8}
    (hi : i ∈ engineRows ch upd ++ [.eStart ch, .eSuspAck ch, .eRaiseTo ch]) : RowOutcome ch i s (exec i s) := by
  simp only [List.mem_append, List.mem_cons, List.not_mem_nil, or_false] at hi
  obtain ((hlink | hdata) | hother) := hi
  · obtain rfl | rfl | hnode := hlink
    · exact .inl (takeLink_movesRegisters ch.toNat s)
    · exact execAGrant_outcome
    · obtain rfl | rfl | rfl | rfl := hnode <;> exact .inl (execNode_movesRegisters ch upd s)
  · obtain rfl | rfl | rfl | rfl | rfl | rfl | rfl := hdata
    · exact takeData_outcome (by simp [dataRows])
    · exact .inl (movesRegisters_ite (movesRegisters_setChan (hostPart_blockEnd ..)))
    · exact .inl (movesRegisters_ite (movesRegisters_setChan (hostPart_engineComplete ..)))
    · exact execERaiseDte_outcome
    · exact .inl (movesRegisters_ite (linkStep_movesRegisters ch.toNat s))
    · exact .inl (movesRegisters_ite (linkStep_movesRegisters ch.toNat s))
    · exact execLinkLoad_outcome
  · obtain rfl | rfl | rfl := hother
    · exact .inl (movesRegisters_ite (movesRegisters_setChan (hostPart_engineStart ..)))
    · exact .inl (movesRegisters_ite (movesRegisters_setChan (hostPart_chAck ..)))
    · exact .inl (movesRegisters_ite (movesRegisters_setChan (hostPart_chRaise ..)))

variable {t : State}

theorem RowOutcome.movesChannel (h : RowOutcome ch i s (.next t)) : MovesChannel ch.toNat s t := by
  obtain hregs | ⟨-, rfl⟩ := h
  · exact hregs.toMovesChannel
  · exact dataStep_movesChannel ch.toNat s

theorem RowOutcome.storesItems (h : RowOutcome ch i s (.next t)) : StoresItems ch.toNat s t.mem := by
  obtain hregs | ⟨-, rfl⟩ := h
  · exact storesItems_of_eq hregs.mem
  · exact dataStep_storesItems ch.toNat s

theorem RowOutcome.mem (h : RowOutcome ch i s (.next t)) (hi : i ∉ dataRows ch) : t.mem = s.mem := by
  obtain hregs | ⟨hdata, -⟩ := h
  · exact hregs.mem
  · exact absurd hdata hi

end Rows

/-- Settles O51: a row moves registers of its channel, or is the channel's data step, whose stores lie in the
destination items. -/
theorem engineFrame : Obligations.EngineFrame := by
  unfold Obligations.EngineFrame
  intro ch upd s t i hi hexec
  have hrow : RowOutcome ch i s (.next t) := hexec ▸ engineRow_outcome hi
  have hmove := hrow.movesChannel
  obtain ⟨hh, hlba, hie, hprio, hsec, hpins, htwoD⟩ := hostPart_eq_iff.mp hmove.hostPart_chan
  obtain ⟨houtside, hrefused⟩ := hrow.storesItems
  have hmem (hdata : i ≠ .eData ch) (hgrant : i ≠ .aGrant ch) (hdte : i ≠ .eRaiseDte ch) : t.mem = s.mem :=
    hrow.mem (by simp [dataRows, hdata, hgrant, hdte])
  exact ⟨fun j => hmove.chan_ne, hmove.length, hh, hlba, hie, hprio, hsec, hpins, htwoD, hmove.cfg, hmove.queues,
    hmove.nodeKinds, hmove.tick, hmove.app, hmove.isr, hmove.irqReply, hmove.agenda, hmove.quantum, hmem, houtside,
    hrefused⟩

end Sys2Proof.EngineFrames
end

section
/-! Decoding and encoding (30_encoding.md R104 to R128): every form of packet reads back (O1), what is read is well
formed (O2), what encodes nothing is a violation (O3), the link words as they are written to CLLR (O37), and words
written out from the encodings (O4). -/

namespace Sys2Proof.Encoding

open Sys2Proof.Machine Sys2Proof.Claims Sys2Proof.LinkWord

section Codec

/-! ## When a row is well formed (41_node_codec.md R172; 30_encoding.md R101 to R105; 40_register_file.md R145) -/

variable {k : Cfg} {ch : ChId}

theorem wf_fillNode {kind : Kind} {c : NodeConfig} :
    (Instr.fillNode kind c).wf k = true ↔ c.rb.isSome = (kind == .twoDimensional) := by
  simp [Instr.wf]

theorem wf_link {upd : BitVec 8} {la : BitVec 14} :
    (Instr.link ch upd la).wf k = true ↔ upd.getLsbD 7 = false ∧ ¬ (upd = 0 ∧ la = 0) := by
  simp [Instr.wf, Decidable.imp_iff_not_or]

theorem wf_linkDynamic {upd : BitVec 7} {la : BitVec 14} :
    (Instr.linkDynamic ch upd la).wf k = true ↔
      1#1 ++ upd ≠ updAll k .linear ∧ 1#1 ++ upd ≠ updAll k .twoDimensional := by
  simp [Instr.wf, updAll]

theorem wf_nLinS {m : BitVec 8} : (Instr.nLinS ch m).wf k = true ↔ m = updAll k .linear := by
  simp [Instr.wf, updAll]

theorem wf_n2dS {m : BitVec 8} :
    (Instr.n2dS ch m).wf k = true ↔ m = updAll k .twoDimensional ∧ m ≠ updAll k .linear := by
  simp [Instr.wf, updAll]

theorem wf_nLinD {m : BitVec 8} :
    (Instr.nLinD ch m).wf k = true ↔
      (m ≠ updAll k .linear ∧ m ≠ updAll k .twoDimensional) ∧ twoDBits m = false := by
  simp [Instr.wf, updAll]

theorem wf_n2dD {m : BitVec 8} :
    (Instr.n2dD ch m).wf k = true ↔ m ≠ updAll k .twoDimensional ∧ twoDBits m = true := by
  simp [Instr.wf, updAll]

theorem wf_regWrite {r : Reg} {w : Word} : (Instr.regWrite ch r w).wf k = true ↔ r ≠ .cfcr := by
  simp [Instr.wf]

theorem wf_ctrlWordWrite {r : Reg} {fs : List (Fld × Word)} :
    (Instr.ctrlWordWrite ch r fs).wf k = true ↔
      fs.length ≠ 1 ∧ (fs.all (fun p => p.1.reg == r) && decide (fs.map Prod.fst).Nodup) = true := by
  simp [Instr.wf, and_assoc]

/-! ## The fields of a command word (30_encoding.md R117) -/

theorem commandWord_opcode (ch : ChId) (r : BitVec 2) (op : BitVec 6) :
    (ch ++ (r ++ op) : BitVec 16).extractLsb' 0 6 = op :=
  (BitVec.extractLsb'_append_eq_of_add_le (by decide)).trans BitVec.extractLsb'_append_eq_right

theorem commandWord_reserved (ch : ChId) (r : BitVec 2) (op : BitVec 6) :
    (ch ++ (r ++ op) : BitVec 16).extractLsb' 6 2 = r :=
  (BitVec.extractLsb'_append_eq_of_add_le (by decide)).trans BitVec.extractLsb'_append_eq_left

theorem commandWord_channel (ch : ChId) (r : BitVec 2) (op : BitVec 6) :
    (ch ++ (r ++ op) : BitVec 16).extractLsb' 8 8 = ch := BitVec.extractLsb'_append_eq_left

/-- What the decoder does with a command word, in the word's fields. -/
theorem decodeCmd_append (ch : ChId) (r : BitVec 2) (op : BitVec 6) (args : List Word) :
    decodeCmd (ch ++ (r ++ op)) args =
      if r ≠ 0 then .error .reservedBits
      else if op.toNat < 0x30 then decodeChannelCmd op.toNat ch args
      else if 0x3A < op.toNat then .error .unassigned
      else if ch ≠ 0 then .error .channelField
      else decodeQueueCmd op.toNat args := by
  unfold decodeCmd
  rw [commandWord_opcode, commandWord_reserved, commandWord_channel]
  simp only [bne_iff_ne]

/-- A command word of the table (30_encoding.md R118): its reserved bits are 0. -/
theorem decodeCmd_cmdWord (ch : ChId) (op : BitVec 6) (args : List Word) :
    decodeCmd (cmdWord ch op) args =
      if op.toNat < 0x30 then decodeChannelCmd op.toNat ch args
      else if 0x3A < op.toNat then .error .unassigned
      else if ch ≠ 0 then .error .channelField
      else decodeQueueCmd op.toNat args :=
  (decodeCmd_append ch 0 op args).trans (if_neg (not_not_intro rfl))

theorem decodeCmd_channel (ch : ChId) {op : BitVec 6} (args : List Word) (h : op.toNat < 0x30) :
    decodeCmd (cmdWord ch op) args = decodeChannelCmd op.toNat ch args := by
  rw [decodeCmd_cmdWord, if_pos h]

theorem decodeCmd_queue {op : BitVec 6} (args : List Word) (hlo : 0x30 ≤ op.toNat) (hhi : op.toNat ≤ 0x3A) :
    decodeCmd (cmdWord 0 op) args = decodeQueueCmd op.toNat args := by
  rw [decodeCmd_cmdWord, if_neg (by omega), if_neg (by omega), if_neg (not_not_intro rfl)]

/-! ## Packets that encode no instruction (30_encoding.md R117, R118, R122, R123) -/

theorem issue_undecoded {p : Packet} {s : State} {e : DecodeError} (h : decode s.cfg p = .error e) :
    issue p s = violated s := by
  rw [Scope.violated_eq_violation, issue, h]

theorem decodeChannelCmd_unassigned {op : Nat} (ch : ChId) (args : List Word)
    (h : op ∈ [0x06, 0x07, 0x2C, 0x2D, 0x2E, 0x2F]) : decodeChannelCmd op ch args = .error .unassigned := by
  simp only [List.mem_cons, List.not_mem_nil, or_false] at h
  rcases h with rfl | rfl | rfl | rfl | rfl | rfl <;> rfl

theorem decodeCmd_unassigned (ch : ChId) {op : BitVec 6} (args : List Word)
    (h : op.toNat ∈ [0x06, 0x07, 0x2C, 0x2D, 0x2E, 0x2F] ∨ 0x3A < op.toNat) :
    decodeCmd (cmdWord ch op) args = .error .unassigned := by
  rcases h with h | h
  · have hlow : op.toNat < 0x30 := by simp only [List.mem_cons, List.not_mem_nil, or_false] at h; omega
    rw [decodeCmd_channel ch args hlow, decodeChannelCmd_unassigned ch args h]
  · rw [decodeCmd_cmdWord, if_neg (by omega), if_pos h]

theorem decodeCmd_reserved (ch : ChId) {r : BitVec 2} (op : BitVec 6) (args : List Word) (h : r ≠ 0) :
    decodeCmd (ch ++ (r ++ op)) args = .error .reservedBits := by
  rw [decodeCmd_append, if_pos h]

/-! ## Codes of enumerations (41_node_codec.md R174; log 20) -/

@[simp] theorem fromCode_kind (x : Kind) : fromCode Kind.list x.code = .ok x := by cases x <;> rfl
@[simp] theorem fromCode_direction (x : Direction) : fromCode Direction.list x.code = .ok x := by cases x <;> rfl
@[simp] theorem fromCode_inc (x : Inc) : fromCode Inc.list x.code = .ok x := by cases x <;> rfl
@[simp] theorem fromCode_width (x : Width) : fromCode Width.list x.code = .ok x := by cases x <;> rfl
@[simp] theorem fromCode_hwMode (x : HwMode) : fromCode HwMode.list x.code = .ok x := by cases x <;> rfl
@[simp] theorem fromCode_port (x : Port) : fromCode Port.list x.code = .ok x := by cases x <;> rfl
@[simp] theorem fromCode_polarity (x : Polarity) : fromCode Polarity.list x.code = .ok x := by cases x <;> rfl
@[simp] theorem fromCode_trigMode (x : TrigMode) : fromCode TrigMode.list x.code = .ok x := by cases x <;> rfl
@[simp] theorem fromCode_dir (x : Dir) : fromCode Dir.list x.code = .ok x := by cases x <;> rfl
@[simp] theorem fromCode_slot (x : Slot) : fromCode Slot.list x.code = .ok x := by cases x <;> rfl
@[simp] theorem fromCode_intSet (x : IntSet) : fromCode IntSet.list x.code = .ok x := by cases x <;> rfl
@[simp] theorem fromCode_level (x : Level) : fromCode Level.list x.code = .ok x := by cases x <;> rfl
@[simp] theorem fromCode_bool (b : Bool) : fromCode boolList (.ofBool b) = .ok b := by cases b <;> rfl

/-! ## Records as argument words (41_node_codec.md R170, R171; log 20) -/

/-- A computation that answered goes on with its answer. -/
@[simp] theorem ok_bind {α β : Type} (a : α) (f : α → Decoded β) : (Except.ok a >>= f) = f a := rfl
@[simp] theorem pure_eq_ok {α : Type} (a : α) : (pure a : Decoded α) = .ok a := rfl

@[simp] theorem parseDirectConfig_words (c : DirectConfig) : parseDirectConfig c.words = .ok c := by
  simp [DirectConfig.words, parseDirectConfig]

@[simp] theorem parseRepeatBlock_words (r : RepeatBlock) : parseRepeatBlock r.words = .ok r := by
  simp [RepeatBlock.words, parseRepeatBlock]

@[simp] theorem parseTrigger_words (t : Trigger) : parseTrigger t.source t.polarity.code t.mode.code = .ok t := by
  simp [parseTrigger]

@[simp] theorem parseDataHandling_words (d : DataHandling) :
    parseDataHandling (.ofBool d.srcByteXchg) (.ofBool d.dstByteXchg) (.ofBool d.dstHalfXchg) d.padAlign = .ok d := by
  simp [parseDataHandling]

@[simp] theorem parseNode_argWords (n : Node) : parseNode n.argWords = .ok n := by
  cases n <;> simp [Node.argWords, parseNode]

/-- A configuration reads back when it has the repeat-block record exactly for the 2-D kind (41_node_codec.md R172). -/
theorem parseNodeConfig_words {kind : Kind} {c : NodeConfig} (h : c.rb.isSome = (kind == .twoDimensional)) :
    parseNodeConfig kind c.words = .ok c := by
  obtain ⟨request, direction, srcInc, dstInc, srcWidth, dstWidth, hwMode, srcPort, dstPort, srcBurstLen, dstBurstLen,
    trigger, data, srcSec, dstSec, srcAddr, dstAddr, size, rb⟩ := c
  cases kind
  case linear =>
    obtain rfl : rb = none := Option.isSome_eq_false_iff.mp h |> Option.isNone_iff_eq_none.mp
    simp [NodeConfig.words, parseNodeConfig]
  case twoDimensional =>
    obtain ⟨r, rfl⟩ := Option.isSome_iff_exists.mp h
    simp [NodeConfig.words, parseNodeConfig]

/-! ## Commands read back (30_encoding.md R117, R118, R128) -/

/-- A well-formed instruction with a command packet reads back from it. -/
theorem decodeCmd_encode {i : Instr} {w : BitVec 16} {args : List Word} (hwf : i.wf k = true)
    (h : encode k i = some (.cmd w args)) : decodeCmd w args = .ok (coreRow i) := by
  cases i <;> cases h
  case fillNode kind c =>
    rw [decodeCmd_queue _ (by decide) (by decide)]
    simp [decodeQueueCmd, parseNodeConfig_words (wf_fillNode.mp hwf), coreRow]
  case decodeNode | convertToDynamic | convertToStatic | updateDynamicQueueLinks | queueInit | queueInsert | queueRemove
      | queueReplace | queueSetCircular | queueClearCircular =>
    rw [decodeCmd_queue _ (by decide) (by decide)]
    simp [decodeQueueCmd, with1, with2, with3, coreRow]
  all_goals
    rw [decodeCmd_channel _ _ (by decide)]
    simp [decodeChannelCmd, with1, with2, with3, with4, coreRow]

/-! ## Flag words and control masks (10_state.md R32, R34, R35; 40_register_file.md R146 to R156) -/

variable {L : Layout}

/-- A one-bit field of a packed word tests as the Boolean packed into it. -/
theorem test_pack (hL : L.wf = true) {r : Reg} {fs : List (Fld × Word)} {f : Fld} {b : Bool}
    (hreg : ∀ p ∈ fs, p.1.reg = r) (hdiff : (fs.map Prod.fst).Nodup) (hmem : (f, Word.ofBool b) ∈ fs)
    (hwidth : f.width L = 1) : f.test L (pack L fs) = b := by
  rw [Fld.test, pack, insFields_getLsbD_of_mem hL hreg hdiff hmem le_rfl (by omega), Nat.sub_self,
    ofBool_getLsbD_zero]

theorem ofWord_toWord (hL : L.wf = true) (fs : FlagSet) : FlagSet.ofWord L (fs.toWord L) = fs := by
  obtain ⟨ht, tc, suspf, dte, use, ule, tov⟩ := fs
  simp only [FlagSet.ofWord, FlagSet.mk.injEq]
  refine ⟨?_, ?_, ?_, ?_, ?_, ?_, ?_⟩ <;>
    exact test_pack hL (r := .csr) (by simp [Fld.reg]) (by simp) (by simp) rfl

theorem ofEnables_toEnables (hL : L.wf = true) (fs : FlagSet) :
    FlagSet.ofEnables L (fs.toEnables L) = fs := by
  obtain ⟨ht, tc, suspf, dte, use, ule, tov⟩ := fs
  simp only [FlagSet.ofEnables, FlagSet.mk.injEq]
  refine ⟨?_, ?_, ?_, ?_, ?_, ?_, ?_⟩ <;>
    exact test_pack hL (r := .ccr) (by simp [Fld.reg]) (by simp) (by simp) rfl

theorem test_mask_self (hL : L.wf = true) {f : Fld} (hwidth : f.width L = 1) : f.test L (f.mask L) = true := by
  have hfit := f.lo_add_width_le hL
  simp [Fld.test, Fld.mask_getLsbD, hwidth, show f.lo L < 32 by omega]

theorem test_mask_ne (hL : L.wf = true) {f g : Fld} (hreg : f.reg = g.reg) (hne : f ≠ g) (hwidth : f.width L = 1) :
    f.test L (g.mask L) = false := by
  have hdisj := Fld.disjoint_of_ne f g hL hreg hne
  simp only [Fld.disjoint, Bool.or_eq_true, decide_eq_true_eq] at hdisj
  rw [Fld.test, Fld.mask_getLsbD, Bool.eq_false_iff]
  simp only [ne_eq, Bool.and_eq_true, decide_eq_true_eq]
  omega

/-- A word with a one-bit field set is not the mask of another field. -/
theorem ne_mask_of_test (hL : L.wf = true) {f g : Fld} {w : Word} (htest : f.test L w = true)
    (hreg : f.reg = g.reg) (hne : f ≠ g) (hwidth : f.width L = 1) : w ≠ g.mask L := by
  rintro rfl
  rw [test_mask_ne hL hreg hne hwidth] at htest
  cases htest

theorem mask_ne_mask (hL : L.wf = true) {f g : Fld} (hreg : f.reg = g.reg) (hne : f ≠ g) (hwidth : f.width L = 1) :
    f.mask L ≠ g.mask L := ne_mask_of_test hL (test_mask_self hL hwidth) hreg hne hwidth

theorem mask_ne_zero (hL : L.wf = true) {f : Fld} (hwidth : f.width L = 1) : f.mask L ≠ 0 := by
  intro h
  have htest := test_mask_self hL hwidth
  simp [h, Fld.test] at htest

/-- The mask of `ie_write` is the mask of no control field. -/
theorem allEnables_ne_mask (hL : L.wf = true) {g : Fld} (hreg : g.reg = .ccr) (hne : g ≠ .tcie) :
    allFlags.toEnables L ≠ g.mask L := by
  have htest : Fld.tcie.test L (allFlags.toEnables L) = true :=
    congrArg FlagSet.tc (ofEnables_toEnables hL allFlags)
  exact ne_mask_of_test hL htest hreg.symm hne.symm rfl

/-! ## Bus accesses read back (30_encoding.md R119; 40_register_file.md R141 to R156) -/

theorem decodeBus_bits_reset (hL : L.wf = true) (ch : ChId) :
    decodeBus L ch .ccr (.bits (Fld.reset.mask L) (Fld.reset.mask L)) = .ok (.hwReset ch) := by
  have hen : Fld.reset.mask L ≠ Fld.en.mask L := mask_ne_mask hL rfl (by decide) rfl
  simp [decodeBus, hen]

theorem decodeBus_bits_susp (hL : L.wf = true) (ch : ChId) (w : Word) :
    decodeBus L ch .ccr (.bits (Fld.susp.mask L) w) =
      if w = Fld.susp.mask L then .ok (.hwSuspendReq ch)
      else if w = 0 then .ok (.hwResume ch)
      else .error .badBusAccess := by
  have hen : Fld.susp.mask L ≠ Fld.en.mask L := mask_ne_mask hL rfl (by decide) rfl
  have hreset : Fld.susp.mask L ≠ Fld.reset.mask L := mask_ne_mask hL rfl (by decide) rfl
  have hie : Fld.susp.mask L ≠ allFlags.toEnables L := (allEnables_ne_mask hL rfl (by decide)).symm
  simp [decodeBus, hen, hreset, hie]

theorem decodeBus_bits_enables (hL : L.wf = true) (ch : ChId) (w : Word) :
    decodeBus L ch .ccr (.bits (allFlags.toEnables L) w) = .ok (.ieWrite ch (FlagSet.ofEnables L w)) := by
  have hen : allFlags.toEnables L ≠ Fld.en.mask L := allEnables_ne_mask hL rfl (by decide)
  have hreset : allFlags.toEnables L ≠ Fld.reset.mask L := allEnables_ne_mask hL rfl (by decide)
  have hsusp : allFlags.toEnables L ≠ Fld.susp.mask L := allEnables_ne_mask hL rfl (by decide)
  simp [decodeBus, hen, hreset, hsusp]

/-- Several fields, or none, are a control-word write (40_register_file.md R145). -/
theorem decodeBus_fields (ch : ChId) (r : Reg) {fs : List (Fld × Word)} (h : fs.length ≠ 1) :
    decodeBus L ch r (.fields fs) =
      if fs.all (fun p => p.1.reg == r) && decide (fs.map Prod.fst).Nodup then .ok (.ctrlWordWrite ch r fs)
      else .error .badBusAccess := by
  match fs with
  | [] => rfl
  | [_] => exact absurd rfl h
  | _ :: _ :: _ => rfl

/-- A well-formed instruction with a packet of the register bus reads back from it. -/
theorem decodeBus_encode (hk : k.wf = true) {i : Instr} {r : Reg} {op : BusOp}
    (hwf : i.wf k = true) (h : encode k i = some (.bus ch r op)) : decodeBus k.layout ch r op = .ok (coreRow i) := by
  have hL := Cfg.wf_layout hk
  cases i <;> cases h
  case regRead | status => rfl
  case fieldWrite => exact if_pos rfl
  case regWrite => exact if_neg (wf_regWrite.mp hwf)
  case ctrlWordWrite fs =>
    obtain ⟨hlen, hfields⟩ := wf_ctrlWordWrite.mp hwf
    rw [decodeBus_fields _ _ hlen, if_pos hfields]
    rfl
  case flagClear fs => simp [decodeBus, ofWord_toWord hL, coreRow]
  case ieWrite fs => rw [decodeBus_bits_enables hL, ofEnables_toEnables hL]; rfl
  case ieSet fs => simp [decodeBus, ofEnables_toEnables hL, coreRow]
  case hwEnable => simp [decodeBus, coreRow]
  case hwSuspendReq => rw [decodeBus_bits_susp hL, if_pos rfl]; rfl
  case hwResume => rw [decodeBus_bits_susp hL, if_neg (mask_ne_zero hL rfl).symm, if_pos rfl]; rfl
  case hwReset => exact decodeBus_bits_reset hL _

/-! ## Link words read back (30_encoding.md R104, R105) -/

theorem extract_laWord (la : BitVec 14) : (laWord la).extractLsb' 2 14 = la := by
  ext j hj
  simp [laWord, show 2 + j < 32 by omega, show ¬ 2 + j ≤ 1 by omega, hj]

theorem linkAddr_laWord (la : BitVec 14) : linkAddr (laWord la) = laWord la := by
  rw [← laWord_extract, extract_laWord]

theorem linkWordOf_eq_mkLink (L : Layout) (m : BitVec 8) (la : BitVec 14) :
    linkWordOf L m la = mkLink L m (laWord la) := by
  rw [linkWordOf, mkLink, linkAddr_laWord]

theorem linkUpd_linkWordOf (hL : L.wf = true) (m : BitVec 8) (la : BitVec 14) :
    linkUpd L (linkWordOf L m la) = m := by
  rw [linkWordOf_eq_mkLink, linkUpd_mkLink hL]

theorem linkAddr_linkWordOf (hL : L.wf = true) (m : BitVec 8) (la : BitVec 14) :
    linkAddr (linkWordOf L m la) = laWord la := by
  rw [linkWordOf_eq_mkLink, linkAddr_mkLink hL, linkAddr_laWord]

theorem linkWordOf_no_other_bit (hL : L.wf = true) (m : BitVec 8) (la : BitVec 14) :
    linkWordOf L m la &&& ~~~(linkFieldBits L) = 0 := by
  rw [linkWordOf_eq_mkLink, mkLink_no_other_bit hL]

theorem extract_linkWordOf (hL : L.wf = true) (m : BitVec 8) (la : BitVec 14) :
    (linkWordOf L m la).extractLsb' 2 14 = la := by
  rw [← extract_laWord ((linkWordOf L m la).extractLsb' 2 14), laWord_extract, linkAddr_linkWordOf hL, extract_laWord]

theorem linkUpd_zero (L : Layout) : linkUpd L 0 = 0 := by
  simp [linkUpd, Fld.test]

/-- `LINK_END` is the link word of no update bit and no address (30_encoding.md R105). -/
theorem linkWordOf_eq_linkEnd_iff (hL : L.wf = true) {m : BitVec 8} {la : BitVec 14} :
    linkWordOf L m la = linkEndWord ↔ m = 0 ∧ la = 0 := by
  constructor
  · intro h
    have hupd := linkUpd_linkWordOf hL m la
    have hla := extract_linkWordOf hL m la
    rw [h] at hupd hla
    exact ⟨hupd.symm.trans (linkUpd_zero L), hla.symm⟩
  · rintro ⟨rfl, rfl⟩
    have hword := linkWordOf_linkUpd hL (w := 0) BitVec.zero_and
    rwa [linkUpd_zero] at hword

/-- The instruction of a link word, by its update mask and address bits: the canonical forms, then the general one
(30_encoding.md R105). -/
def linkRow (k : Cfg) (ch : ChId) (m : BitVec 8) (la : BitVec 14) : Instr :=
  if m = 0 ∧ la = 0 then .linkEnd ch
  else if m = updAll k .linear then .linkStaticLinear ch la
  else if m = updAll k .twoDimensional then .linkStaticTwoDimensional ch la
  else if m.getLsbD 7 then .linkDynamic ch (m.extractLsb' 0 7) la
  else .link ch m la

theorem decodeLinkWord_linkWordOf (hk : k.wf = true) (ch : ChId) (m : BitVec 8) (la : BitVec 14) :
    decodeLinkWord k ch (linkWordOf k.layout m la) = .ok (linkRow k ch m la) := by
  have hL := Cfg.wf_layout hk
  unfold decodeLinkWord linkRow
  simp only [linkUpd_linkWordOf hL, extract_linkWordOf hL, linkWordOf_no_other_bit hL, linkWordOf_eq_linkEnd_iff hL,
    ne_eq, not_true_eq_false, if_false, apply_ite (Except.ok (ε := DecodeError))]

/-! ## The masks of full nodes (30_encoding.md R105; 90_conflicts.md C1) -/

/-- A full 2-D node stores CLLR, and a register that a linear one does not have. -/
theorem nodeRegs2d_of_wf (hk : k.wf = true) :
    k.nodeRegs2d.getLsbD 7 = true ∧ k.nodeRegs2d ≠ updAllLinear := by
  have hmasks : ∀ m : BitVec 8, ([0, 1, 2, 4, 5, 6].any fun i => m ||| (1#8 <<< i) == 0b11111111) = true →
      m.getLsbD 7 = true ∧ m ≠ updAllLinear := by decide
  rw [Cfg.wf, Bool.and_eq_true] at hk
  exact hmasks _ hk.2

/-- A full node of either kind stores CLLR. -/
theorem updAll_cllr (hk : k.wf = true) (kind : Kind) : (updAll k kind).getLsbD 7 = true := by
  cases kind
  case linear => exact (by decide : updAllLinear.getLsbD 7 = true)
  case twoDimensional => exact (nodeRegs2d_of_wf hk).1

theorem one_append_cllr (upd : BitVec 7) : (1#1 ++ upd).getLsbD 7 = true := by
  revert upd
  decide

theorem ne_zero_of_cllr {m : BitVec 8} (h : m.getLsbD 7 = true) : m ≠ 0 := by
  rintro rfl
  simp at h

/-- A well-formed instruction with a link word reads back from it. -/
theorem decodeLinkWord_encode (hk : k.wf = true) {i : Instr} {w : Word} (hwf : i.wf k = true)
    (h : encode k i = some (.linkWord ch w)) : decodeLinkWord k ch w = .ok (coreRow i) := by
  cases i <;> cases h
  case linkEnd =>
    have hword := (linkWordOf_eq_linkEnd_iff (Cfg.wf_layout hk)).mpr ⟨rfl, rfl⟩
    rw [← hword, decodeLinkWord_linkWordOf hk]
    rfl
  case linkStaticLinear la =>
    have hzero := ne_zero_of_cllr (updAll_cllr hk .linear)
    rw [decodeLinkWord_linkWordOf hk, linkRow, if_neg fun h => hzero h.1, if_pos rfl]
    rfl
  case linkStaticTwoDimensional la =>
    have hzero := ne_zero_of_cllr (updAll_cllr hk .twoDimensional)
    have hlinear : updAll k .twoDimensional ≠ updAll k .linear := (nodeRegs2d_of_wf hk).2
    rw [decodeLinkWord_linkWordOf hk, linkRow, if_neg fun h => hzero h.1, if_neg hlinear, if_pos rfl]
    rfl
  case linkDynamic upd la =>
    obtain ⟨hlinear, h2d⟩ := wf_linkDynamic.mp hwf
    have hcllr := one_append_cllr upd
    have hzero := ne_zero_of_cllr hcllr
    rw [decodeLinkWord_linkWordOf hk, linkRow, if_neg fun h => hzero h.1, if_neg hlinear, if_neg h2d, if_pos hcllr,
      BitVec.extractLsb'_append_eq_right]
    rfl
  case link upd la =>
    obtain ⟨hcllr, hzero⟩ := wf_link.mp hwf
    have hfull (kind : Kind) : upd ≠ updAll k kind := by
      rintro rfl
      exact Bool.false_ne_true (hcllr.symm.trans (updAll_cllr hk kind))
    rw [decodeLinkWord_linkWordOf hk, linkRow, if_neg hzero, if_neg (hfull _), if_neg (hfull _), hcllr]
    rfl

/-! ## Node formats read back (30_encoding.md R101 to R103, R107) -/

theorem decodeNodeFormat_encode {i : Instr} {m : BitVec 8} (hwf : i.wf k = true)
    (h : encode k i = some (.node ch m)) : decodeNodeFormat k ch m = coreRow i := by
  cases i <;> cases h
  case nLinS => exact if_pos (wf_nLinS.mp hwf)
  case n2dS =>
    obtain ⟨h2d, hlinear⟩ := wf_n2dS.mp hwf
    rw [decodeNodeFormat, if_neg hlinear, if_pos h2d]
    rfl
  case nLinD =>
    obtain ⟨⟨hlinear, h2d⟩, hbits⟩ := wf_nLinD.mp hwf
    rw [decodeNodeFormat, if_neg hlinear, if_neg h2d, hbits]
    rfl
  case n2dD =>
    obtain ⟨h2d, hbits⟩ := wf_n2dD.mp hwf
    have hlinear : m ≠ updAll k .linear := by
      rintro rfl
      exact absurd hbits (by decide : ¬ twoDBits updAllLinear = true)
    rw [decodeNodeFormat, if_neg hlinear, if_neg h2d, if_pos hbits]
    rfl

/-! ## What the decoder answers is well formed -/

/-- Whatever a part of the decoder answers has the property `P`. -/
structure AnswersOnly {α : Type} (P : α → Prop) (x : Decoded α) : Prop where
  of_ok : ∀ a, x = .ok a → P a

section Combinators

variable {α β : Type} {P : β → Prop}

theorem answersOnly_ok {b : β} : AnswersOnly P (.ok b) ↔ P b :=
  ⟨fun h => h.of_ok b rfl, fun h => ⟨fun _ e => Except.ok.inj e ▸ h⟩⟩

theorem answersOnly_error (e : DecodeError) : AnswersOnly P (.error e) := ⟨nofun⟩

theorem AnswersOnly.imp {Q : β → Prop} {x : Decoded β} (h : AnswersOnly P x) (hPQ : ∀ b, P b → Q b) :
    AnswersOnly Q x := ⟨fun b hb => hPQ b (h.of_ok b hb)⟩

theorem answersOnly_of_forall {x : Decoded β} (h : ∀ b, P b) : AnswersOnly P x := ⟨fun b _ => h b⟩

theorem answersOnly_true (x : Decoded β) : AnswersOnly (fun _ => True) x := answersOnly_of_forall fun _ => trivial

theorem answersOnly_bind {x : Decoded α} {f : α → Decoded β} :
    AnswersOnly P (x >>= f) ↔ AnswersOnly (fun a => AnswersOnly P (f a)) x := by
  cases x with
  | error e => exact iff_of_true (answersOnly_error e) (answersOnly_error e)
  | ok a => exact (answersOnly_ok (P := fun a => AnswersOnly P (f a))).symm

variable {args : List Word} {Q : Instr → Prop}

theorem answersOnly_with1 {f : Word → Decoded Instr} (h : ∀ a, AnswersOnly Q (f a)) :
    AnswersOnly Q (with1 args f) := by
  unfold with1
  split
  · exact h _
  · exact answersOnly_error _

theorem answersOnly_with2 {f : Word → Word → Decoded Instr} (h : ∀ a b, AnswersOnly Q (f a b)) :
    AnswersOnly Q (with2 args f) := by
  unfold with2
  split
  · exact h ..
  · exact answersOnly_error _

theorem answersOnly_with3 {f : Word → Word → Word → Decoded Instr}
    (h : ∀ a b c, AnswersOnly Q (f a b c)) : AnswersOnly Q (with3 args f) := by
  unfold with3
  split
  · exact h ..
  · exact answersOnly_error _

theorem answersOnly_with4 {f : Word → Word → Word → Word → Decoded Instr}
    (h : ∀ a b c d, AnswersOnly Q (f a b c d)) : AnswersOnly Q (with4 args f) := by
  unfold with4
  split
  · exact h ..
  · exact answersOnly_error _

end Combinators

/-- `Instr.wf` as a property. -/
def IsWf (k : Cfg) (i : Instr) : Prop := i.wf k = true

/-- The commands with a channel have operands that any value fits. -/
theorem decodeChannelCmd_wf (k : Cfg) (op : Nat) (ch : ChId) (args : List Word) :
    AnswersOnly (IsWf k) (decodeChannelCmd op ch args) := by
  unfold decodeChannelCmd
  split <;> simp [answersOnly_ok, answersOnly_error, answersOnly_bind, answersOnly_true, answersOnly_with1,
    answersOnly_with2, answersOnly_with3, answersOnly_with4, IsWf, Instr.wf]

/-- The configuration read for a kind has the repeat-block record exactly for the 2-D kind (41_node_codec.md R172). -/
theorem parseNodeConfig_rb (kind : Kind) (args : List Word) :
    AnswersOnly (fun c => c.rb.isSome = (kind == .twoDimensional)) (parseNodeConfig kind args) := by
  unfold parseNodeConfig
  split
  · cases kind <;> simp [answersOnly_ok, answersOnly_bind, answersOnly_true]
  · exact answersOnly_error _

theorem decodeQueueCmd_wf (k : Cfg) (op : Nat) (args : List Word) :
    AnswersOnly (IsWf k) (decodeQueueCmd op args) := by
  unfold decodeQueueCmd
  split
  case h_1 =>
    split
    · refine answersOnly_bind.mpr (answersOnly_of_forall fun kind => answersOnly_bind.mpr ?_)
      exact (parseNodeConfig_rb kind _).imp fun c hrb => answersOnly_ok.mpr (wf_fillNode.mpr hrb)
    · exact answersOnly_error _
  all_goals simp [answersOnly_ok, answersOnly_error, answersOnly_bind, answersOnly_true, answersOnly_with1,
    answersOnly_with2, answersOnly_with3, IsWf, Instr.wf]

theorem decodeCmd_wf (k : Cfg) (w : BitVec 16) (args : List Word) : AnswersOnly (IsWf k) (decodeCmd w args) := by
  unfold decodeCmd
  dsimp only
  split_ifs
  · exact answersOnly_error _
  · exact decodeChannelCmd_wf ..
  · exact answersOnly_error _
  · exact answersOnly_error _
  · exact decodeQueueCmd_wf ..

theorem decodeBus_wf (k : Cfg) (ch : ChId) (r : Reg) (op : BusOp) :
    AnswersOnly (IsWf k) (decodeBus k.layout ch r op) := by
  cases op
  case fields fs =>
    by_cases hlen : fs.length = 1
    · obtain ⟨p, rfl⟩ := List.length_eq_one_iff.mp hlen
      unfold decodeBus
      dsimp only
      split_ifs
      · exact answersOnly_ok.mpr rfl
      · exact answersOnly_error _
    · rw [decodeBus_fields ch r hlen]
      split_ifs with hfields
      · exact answersOnly_ok.mpr (wf_ctrlWordWrite.mpr ⟨hlen, hfields⟩)
      · exact answersOnly_error _
  case write w =>
    unfold decodeBus
    dsimp only
    split_ifs with hr
    · exact answersOnly_ok.mpr rfl
    · exact answersOnly_ok.mpr (wf_regWrite.mpr hr)
  case read => exact answersOnly_ok.mpr rfl
  all_goals
    unfold decodeBus
    dsimp only
    split_ifs
  all_goals simp [answersOnly_ok, answersOnly_error, IsWf, Instr.wf]

theorem linkRow_wf (k : Cfg) (ch : ChId) (m : BitVec 8) (la : BitVec 14) : IsWf k (linkRow k ch m la) := by
  unfold linkRow
  split_ifs with hend hlinear h2d hcllr
  · rfl
  · rfl
  · rfl
  · rw [IsWf, wf_linkDynamic, one_append_extract hcllr]
    exact ⟨hlinear, h2d⟩
  · exact wf_link.mpr ⟨Bool.eq_false_iff.mpr hcllr, hend⟩

/-- A word with a reserved bit is a plain write of CLLR, any other the link word of its parts. -/
theorem decodeLinkWord_wf (hk : k.wf = true) (ch : ChId) (w : Word) :
    AnswersOnly (IsWf k) (decodeLinkWord k ch w) := by
  by_cases hw : w &&& ~~~(linkFieldBits k.layout) = 0
  · rw [← linkWordOf_linkUpd (Cfg.wf_layout hk) hw, decodeLinkWord_linkWordOf hk]
    exact answersOnly_ok.mpr (linkRow_wf ..)
  · unfold decodeLinkWord
    dsimp only
    rw [if_pos hw]
    exact answersOnly_ok.mpr rfl

theorem decodeNodeFormat_wf (k : Cfg) (ch : ChId) (m : BitVec 8) : IsWf k (decodeNodeFormat k ch m) := by
  unfold decodeNodeFormat
  split_ifs with hlinear h2d hbits
  · exact wf_nLinS.mpr hlinear
  · exact wf_n2dS.mpr ⟨h2d, hlinear⟩
  · exact wf_n2dD.mpr ⟨h2d, hbits⟩
  · exact wf_nLinD.mpr ⟨⟨hlinear, h2d⟩, Bool.eq_false_iff.mpr hbits⟩

end Codec

/-! ## Link words written to CLLR (30_encoding.md R104, R105; log 28) -/

/-- A micro-operation that writes one register of a disabled channel. -/
theorem microOk_regWrite {s : State} {ch : ChId} (r : Reg) (w : Word) (hr : Ready s) (hch : Has s ch)
    (hen : (s.chan ch.toNat).ccr.en = false) :
    microOk ch [.regWrite ch.toNat r w] s = okAfter s ch (writeReg s.cfg r w) := by
  obtain ⟨hp, hq⟩ := hr
  have hhas : s.hasChan ch.toNat = true := decide_eq_true hch
  rw [microOk, micro, command_run hhas, guarded_nil]
  refine runHost_done (n := 2) hp (by omega) ?_ (by simp) (by simp)
  exact (runOps_go (runOp_regWrite ch.toNat r w s hen)).trans (runOps_go (runOp_ret _ _))

/-- The link words of full nodes under LAYOUT_U5 (30_encoding.md R115). -/
theorem linkWordOf_u5_linear (la : BitVec 14) : linkWordOf Layout.u5 updAllLinear la = 0xF8010000 ||| laWord la :=
  congrArg (· ||| laWord la) (by decide : updWord Layout.u5 updAllLinear = 0xF8010000)

theorem linkWordOf_u5_twoDimensional (la : BitVec 14) :
    linkWordOf Layout.u5 0b11111111 la = 0xFE010000 ||| laWord la :=
  congrArg (· ||| laWord la) (by decide : updWord Layout.u5 0b11111111 = 0xFE010000)

/-- Settles O1: one case per form of packet. -/
theorem decodeEncodeAgree : Obligations.DecodeEncodeAgree := by
  unfold Obligations.DecodeEncodeAgree
  intro k i p hk hwf h
  cases p
  case cmd w args => exact decodeCmd_encode hwf h
  case bus ch r op => exact decodeBus_encode hk hwf h
  case linkWord ch w => exact decodeLinkWord_encode hk hwf h
  case node ch m => exact congrArg Except.ok (decodeNodeFormat_encode hwf h)

/-- Settles O2: one case per form of packet. -/
theorem decodedIsWellFormed : Obligations.DecodedIsWellFormed := by
  unfold Obligations.DecodedIsWellFormed
  intro k p i hk h
  cases p
  case cmd w args => exact (decodeCmd_wf k w args).of_ok i h
  case bus ch r op => exact (decodeBus_wf k ch r op).of_ok i h
  case linkWord ch w => exact (decodeLinkWord_wf hk ch w).of_ok i h
  case node ch m => exact (answersOnly_ok.mpr (decodeNodeFormat_wf k ch m)).of_ok i h

/-- Settles O3: the fields of the command word show what the decoder refuses, and a refused packet is a violation. -/
theorem unassignedCommandsViolate : Obligations.UnassignedCommandsViolate := by
  unfold Obligations.UnassignedCommandsViolate
  intro ch op args s
  refine ⟨fun hop => ?_, fun r hr => ?_, fun p e h => issue_undecoded h⟩
  · have hcases : op.toNat ∈ [0x06, 0x07, 0x2C, 0x2D, 0x2E, 0x2F] ∨ 0x3A < op.toNat := by
      simp only [List.mem_cons, List.not_mem_nil, or_false] at hop ⊢
      omega
    exact issue_undecoded (decodeCmd_unassigned ch args hcases)
  · exact issue_undecoded (decodeCmd_reserved ch op args hr)

/-- Settles O37: a link-word row writes the word of its mask and address, whose parts are those of a link word. -/
theorem linkWordWriteResult : Obligations.LinkWordWriteResult := by
  unfold Obligations.LinkWordWriteResult
  intro ch s la hr hch hen hk L addr links carries
  have hL : L.wf = true := Cfg.wf_layout hk
  have hwrite (w : Word) : microOk ch [.regWrite ch.toNat .cllr w] s = okAfter s ch fun c => { c with cllr := w } :=
    microOk_regWrite .cllr w hr hch hen
  have hcarries {i : Instr} {m : BitVec 8} (h : links i (linkWordOf L m la)) : carries i m :=
    ⟨linkWordOf L m la, h, linkUpd_linkWordOf hL m la, linkAddr_linkWordOf hL m la, linkWordOf_no_other_bit hL m la⟩
  refine ⟨hwrite 0, hcarries (hwrite _), hcarries (hwrite _), fun m => hcarries (hwrite _),
    fun m => hcarries (hwrite _), fun hu5 h2d => ⟨?_, ?_⟩⟩
  · have hword : linkWordOf L updAllLinear la = 0xF8010000 ||| addr := hu5 ▸ linkWordOf_u5_linear la
    exact hword ▸ hwrite (linkWordOf L updAllLinear la)
  · have hword : linkWordOf L s.cfg.nodeRegs2d la = 0xFE010000 ||| addr := by
      rw [hu5, h2d]
      exact linkWordOf_u5_twoDimensional la
    exact hword ▸ hwrite (linkWordOf L s.cfg.nodeRegs2d la)

/-- Settles O4: each packet is decoded by evaluation. -/
theorem wordsDecode : Obligations.WordsDecode := by
  unfold Obligations.WordsDecode
  decide

end Sys2Proof.Encoding
end

section
/-! The register file and its micro-operations (40_register_file.md): the control rows (O39), the start of a block
(O26), reads (O35), writes of registers and of named fields (O36, O38), and the load of a node (O40). -/

namespace Sys2Proof.RegisterFile

open Sys2Proof.Machine Sys2Proof.Claims Sys2Proof.LinkWord Sys2Proof.Encoding

/-! ## Running a micro-operation (40_register_file.md R140; log 30) -/

section Runs

variable {s : State} {ch : ChId}

/-- Updates that agree on the channel they act on answer the same. -/
theorem okAfter_congr {f g : Channel → Channel} (h : f (s.chan ch.toNat) = g (s.chan ch.toNat)) :
    okAfter s ch f = okAfter s ch g := by
  rw [okAfter, replied, repliedAt, State.onChan, h]
  rfl

/-- A micro-operation on an existing channel that takes at most three operations finishes in its turn. -/
theorem micro_done (hr : Ready s) (hch : Has s ch) {ops : List HostOp} {t : State}
    (h : runOps 3 ops s = .next ([], t)) (hisr : t.isr = s.isr) (htodo : t.app.todo = s.app.todo) :
    micro ch ops s = .next t := by
  obtain ⟨hpending, hquantum⟩ := hr
  have hhas : s.hasChan ch.toNat = true := decide_eq_true hch
  rw [micro, command_run hhas, guarded_nil]
  exact runHost_done hpending (by omega) h hisr htodo

/-- One access that updates the channel, then `Ok`. -/
theorem microOk_go (hr : Ready s) (hch : Has s ch) {op : HostOp} {f : Channel → Channel}
    (h : runOp op s = .go [] (s.onChan ch.toNat f)) : microOk ch [op] s = okAfter s ch f := by
  refine micro_done hr hch ?_ (by simp) (by simp)
  exact (runOps_go h).trans ((runOps_go (runOp_ret _ _)).trans (runOps_nil _ _))

/-- A register read answers with the register (R141). -/
theorem micro_collect (hr : Ready s) (hch : Has s ch) (r : Reg) :
    micro ch [.collect ch.toNat [r] [] .reg] s = answered s (.word (readReg s.cfg (s.chan ch.toNat) r)) := by
  refine micro_done hr hch ?_ (by simp) (by simp)
  exact (runOps_go (runOp_collect_cons ..)).trans
    ((runOps_go (runOp_collect_nil ..)).trans (runOps_go (runOp_ret ..)))

/-- The host may write the register: it is no link register or CLBAR, or the channel is disabled
(93_implementation_defined.md U3). -/
def Writable (s : State) (ch : ChId) (r : Reg) : Prop := isLinkReg r = true → (s.chan ch.toNat).ccr.en = false

theorem writable_of_disabled (r : Reg) (h : (s.chan ch.toNat).ccr.en = false) : Writable s ch r := fun _ => h

theorem writable_of_control {r : Reg} (h : isLinkReg r = false) : Writable s ch r := fun hlink => by simp [h] at hlink

theorem runOp_regWrite_writable {r : Reg} (h : Writable s ch r) (w : Word) :
    runOp (.regWrite ch.toNat r w) s = .go [] (s.onChan ch.toNat (writeReg s.cfg r w)) := by
  cases hlink : isLinkReg r
  · simp [runOp, hostRegWrite, hlink]
  · exact runOp_regWrite _ _ _ _ (h hlink)

/-- A write of named fields of a register other than CCR: a read, then one write of the word (R142, R145). -/
theorem microOk_fields (hr : Ready s) (hch : Has s ch) {r : Reg} (hccr : r ≠ .ccr) (h : Writable s ch r)
    (fs : List (Fld × Word)) :
    microOk ch (fieldOps ch r fs) s = okAfter s ch
      (writeReg s.cfg r (insFields s.cfg.layout fs (readReg s.cfg (s.chan ch.toNat) r))) := by
  rw [fieldOps, if_neg hccr]
  refine micro_done hr hch ?_ (by simp) (by simp)
  exact (runOps_go (runOp_rmw ..)).trans
    ((runOps_go (runOp_regWrite_writable h _)).trans (runOps_go (runOp_ret ..)))

/-- A write of named fields of CCR is one access (R142; log 17). -/
theorem microOk_ccrFields (hr : Ready s) (hch : Has s ch) (fs : List (Fld × Word)) :
    microOk ch (fieldOps ch .ccr fs) s = okAfter s ch (ccrUpdate s.cfg fs) := microOk_go hr hch rfl

end Runs

/-! ## Requests of the host (40_register_file.md R152, R153) -/

theorem chSuspReq_eq (c : Channel) : chSuspReq c = { c with ccr := suspRequested c } := by
  unfold chSuspReq suspRequested
  cases c.ccr.en <;> simp

theorem flagsDiff_suspf (f : FlagSet) : flagsDiff f flagSUSPF = { f with suspf := false } := by
  simp [flagsDiff, flagsMap2, flagSUSPF, FlagSet.empty]

theorem chResume_eq (c : Channel) : chResume c = resumed c := by
  rw [chResume, flagsDiff_suspf]

/-- Settles O39: each row is one access, whose update of the channel is the stated one. -/
theorem controlMicroOpResult : Obligations.ControlMicroOpResult := by
  unfold Obligations.ControlMicroOpResult
  intro ch s hr hch
  have hreq : exec (.hwSuspendReq ch) s = okAfter s ch chSuspReq := microOk_go hr hch rfl
  have hresume : exec (.hwResume ch) s = okAfter s ch resumed :=
    (microOk_go hr hch rfl).trans (okAfter_congr (chResume_eq _))
  refine ⟨fun x => microOk_go hr hch rfl, fun x => microOk_go hr hch rfl, fun x => microOk_go hr hch rfl,
    hreq.trans (okAfter_congr (chSuspReq_eq _)), fun hsusp => ?none, fun hsusp => ?pending, microOk_go hr hch rfl⟩
  case none => exact hresume.trans (okAfter_congr (by simp [hsusp]))
  case pending => exact hresume.trans (okAfter_congr (by simp [hsusp]))

/-! ## The start of a block (45_channel_engine.md R303, R305, R306) -/

theorem chRaiseFatal_use (c : Channel) : chRaiseFatal flagUSE c = stopped c { c.csr.flags with use := true } := by
  simp [chRaiseFatal, flagsOr, flagsMap2, flagUSE, FlagSet.empty]

theorem chRaiseFatal_ule (c : Channel) : chRaiseFatal flagULE c = stopped c { c.csr.flags with ule := true } := by
  simp [chRaiseFatal, flagsOr, flagsMap2, flagULE, FlagSet.empty]

/-- A channel without 2-D addressing has no BRC (10_state.md R24). -/
theorem brc_get_linear (L : Layout) (w : Word) : Fld.brc.get L (w &&& cbr1LinearMask L) = 0 := by
  refine BitVec.eq_of_getLsbD_eq fun i _ => ?_
  have hmask : i < Fld.brc.width L → (cbr1LinearMask L).getLsbD (Fld.brc.lo L + i) = false := by
    intro hwidth
    simp only [cbr1LinearMask, BitVec.getLsbD_not, BitVec.getLsbD_or, Fld.mask_getLsbD (f := .brc)]
    by_cases h : Fld.brc.lo L + i < 32 <;> simp [h, hwidth]
  rw [Fld.get_getLsbD, BitVec.getLsbD_and]
  by_cases hwidth : i < Fld.brc.width L
  · simp [hmask hwidth]
  · simp [hwidth]

theorem brcOf_eq (L : Layout) (c : Channel) :
    brcOf L c = (if c.twoD then Fld.brc.get L c.cbr1 else 0).toNat := by
  unfold brcOf cbr1View
  cases c.twoD <;> simp [brc_get_linear]

theorem saveReload_eq (L : Layout) (c : Channel) : saveReload L c = reloaded L c := by
  simp [saveReload, bndtOf, brcOf_eq]

theorem cfgValid_iff (k : Cfg) (c : Channel) : cfgValid k c = true ↔ Valid k c := by
  have hpol : (!(k.polarityChecked && Fld.trigPol.get k.layout c.ctr2 == 3)) = true ↔
      (k.polarityChecked = true → Fld.trigPol.get k.layout c.ctr2 ≠ 3) := by
    cases k.polarityChecked <;> simp
  simp only [cfgValid, Bool.and_eq_true, decide_eq_true_eq, bne_iff_ne, hpol, and_assoc]
  rfl

theorem nodeUnit_eq (L : Layout) (c : Channel) : nodeUnit L c = eventUnit L c := by
  have hmode : eventMode L c = 0 ↔ Fld.eventMode.get L c.ctr2 = 0 := by
    rw [eventMode, ← BitVec.toNat_inj]
    rfl
  simp only [nodeUnit, hmode]

theorem beginNode_eq (k : Cfg) (c : Channel) : beginNode k c = blockBegun k c := by
  rw [beginNode, nodeUnit_eq]

theorem engineStart_eq (k : Cfg) (c : Channel) : engineStart k c = started k c := by
  simp only [engineStart, started, saveReload_eq, beginNode_eq, chRaiseFatal_use, cfgValid_iff]
  rfl

/-- Settles O26: `hw_enable` sets EN, clears IDLE and starts the block; `E.START` is the start alone. -/
theorem enableResult : Obligations.EnableResult := by
  unfold Obligations.EnableResult
  intro ch s hr hch
  have henable : exec (.hwEnable ch) s = okAfter s ch (chEnable s.cfg) := microOk_go hr hch rfl
  refine ⟨fun hen => ⟨?_, ?_⟩, fun hen => ?_⟩
  · rw [henable]
    exact okAfter_congr (by simp [chEnable, hen])
  · have hhas : s.hasChan ch.toNat = true := decide_eq_true hch
    calc exec (.eStart ch) s
        = partStep ch (fun c => c.ccr.en) (engineStart s.cfg) s := rfl
      _ = .next (s.onChan ch.toNat (engineStart s.cfg)) := by simp [partStep, hhas, hen]
      _ = .next (s.onChan ch.toNat (started s.cfg)) := by rw [funext (engineStart_eq s.cfg)]
  · rw [henable]
    exact okAfter_congr (by simp [chEnable, hen, engineStart_eq])

/-! ## Fields of a packed word (30_encoding.md R109, R111; 40_register_file.md R142, R145) -/

section Packed

variable {L : Layout} {r : Reg} {fs : List (Fld × Word)}

/-- Different fields of one register: what a write of named fields names (R145). -/
structure OneRegister (r : Reg) (fs : List (Fld × Word)) : Prop where
  reg : ∀ p ∈ fs, p.1.reg = r
  nodup : (fs.map Prod.fst).Nodup

theorem oneRegister_singleton (f : Fld) (v : Word) : OneRegister f.reg [(f, v)] := ⟨by simp, by simp⟩

theorem oneRegister_of_wf {k : Cfg} {ch : ChId} (h : (Instr.ctrlWordWrite ch r fs).wf k = true) :
    OneRegister r fs := by
  obtain ⟨-, hfields⟩ := wf_ctrlWordWrite.mp h
  simp only [Bool.and_eq_true, List.all_eq_true, beq_iff_eq, decide_eq_true_eq] at hfields
  exact ⟨hfields.1, hfields.2⟩

/-- Bit `j` lies in the field. -/
def Holds (L : Layout) (f : Fld) (j : Nat) : Prop := f.lo L ≤ j ∧ j < f.lo L + f.width L

theorem mask_getLsbD_iff (hL : L.wf = true) {f : Fld} {j : Nat} : (f.mask L).getLsbD j = true ↔ Holds L f j := by
  have hfit := f.lo_add_width_le hL
  simp only [Fld.mask_getLsbD, Bool.and_eq_true, decide_eq_true_eq, Holds]
  omega

/-- A bit of one field lies in no other field of the register. -/
theorem Holds.unique (hL : L.wf = true) {f g : Fld} {j : Nat} (hf : Holds L f j) (hg : Holds L g j)
    (hreg : f.reg = g.reg) : f = g := by
  by_contra hne
  have hdisj := Fld.disjoint_of_ne f g hL hreg hne
  simp only [Fld.disjoint, Bool.or_eq_true, decide_eq_true_eq] at hdisj
  unfold Holds at hf hg
  omega

/-- Bit 0 of the value that a write gives field `f`, or `old` when it gives none. -/
def given (val : Fld → Option Word) (f : Fld) (old : Bool) : Bool :=
  match val f with
  | some v => v.getLsbD 0
  | none => old

/-- A one-bit field after a write of named fields: bit 0 of the value given for it, or as before. -/
theorem test_insFields (hL : L.wf = true) (hfs : OneRegister r fs) {f : Fld} (hreg : f.reg = r)
    (hwidth : f.width L = 1) (w : Word) : f.test L (insFields L fs w) = given (fs.lookup ·) f (f.test L w) := by
  have hf : Holds L f (f.lo L) := ⟨le_rfl, by omega⟩
  unfold given
  dsimp only
  cases hv : fs.lookup f with
  | some v =>
    obtain ⟨before, after, hsplit, -⟩ := List.lookup_eq_some_iff.mp hv
    have hmem : (f, v) ∈ fs := by simp [hsplit]
    rw [Fld.test, insFields_getLsbD_of_mem hL hfs.reg hfs.nodup hmem hf.1 hf.2, Nat.sub_self]
  | none =>
    refine insFields_getLsbD_of_not fun p hp hheld => ?_
    have heq : p.1 = f := Holds.unique hL hheld hf ((hfs.reg p hp).trans hreg.symm)
    have hne := List.lookup_eq_none_iff.mp hv p hp
    simp [heq] at hne

/-- A one-bit field of a packed word: bit 0 of the value given for it, or 0. -/
theorem test_pack_given (hL : L.wf = true) (hfs : OneRegister r fs) {f : Fld} (hreg : f.reg = r)
    (hwidth : f.width L = 1) : f.test L (pack L fs) = given (fs.lookup ·) f false := by
  rw [pack, test_insFields hL hfs hreg hwidth]
  simp [Fld.test]

/-- A field of a packed word reads as the value given for it, truncated (30_encoding.md R111). -/
theorem get_pack (hL : L.wf = true) (hfs : OneRegister r fs) {f : Fld} {v : Word} (hmem : (f, v) ∈ fs) :
    f.get L (pack L fs) = v &&& f.ones L := by
  refine BitVec.eq_of_getLsbD_eq fun i hi => ?_
  rw [Fld.get_getLsbD, BitVec.getLsbD_and, Fld.ones_getLsbD]
  by_cases hw : i < f.width L
  · rw [pack, insFields_getLsbD_of_mem hL hfs.reg hfs.nodup hmem (Nat.le_add_right ..) (by omega)]
    simp [hi]
  · simp [hw]

/-- A packed word has bits of its fields only. -/
theorem holds_of_pack_getLsbD {j : Nat} (h : (pack L fs).getLsbD j = true) : ∃ p ∈ fs, Holds L p.1 j := by
  by_contra hnone
  rw [pack, insFields_getLsbD_of_not fun p hp hheld => hnone ⟨p, hp, hheld⟩] at h
  simp at h

/-- `mask_F1 | ... | mask_Fn` of R145. -/
abbrev maskOf (L : Layout) (fs : List (Fld × Word)) : Word := fs.foldl (fun m p => m ||| p.1.mask L) 0

/-- The bits of the named fields (R145). -/
theorem masks_getLsbD_iff (hL : L.wf = true) {j : Nat} :
    (maskOf L fs).getLsbD j = true ↔ ∃ p ∈ fs, Holds L p.1 j := by
  have hfold (m : Word) : (fs.foldl (fun m p => m ||| p.1.mask L) m).getLsbD j = true ↔
      m.getLsbD j = true ∨ ∃ p ∈ fs, Holds L p.1 j := by
    induction fs generalizing m with
    | nil => simp
    | cons p fs ih => simp [ih, mask_getLsbD_iff hL, or_assoc]
  rw [hfold]
  simp

/-- A write of named fields in the words of R145: the other bits kept, the named fields packed. -/
theorem insFields_eq (hL : L.wf = true) (hfs : OneRegister r fs) (w : Word) :
    insFields L fs w = (w &&& ~~~(maskOf L fs)) ||| pack L fs := by
  refine BitVec.eq_of_getLsbD_eq fun j hj => ?_
  rw [BitVec.getLsbD_or, BitVec.getLsbD_and, BitVec.getLsbD_not]
  by_cases hheld : ∃ p ∈ fs, Holds L p.1 j
  · rw [(masks_getLsbD_iff hL).mpr hheld]
    obtain ⟨⟨f, v⟩, hmem, hlo, hhi⟩ := hheld
    rw [pack, insFields_getLsbD_of_mem hL hfs.reg hfs.nodup hmem hlo hhi,
      insFields_getLsbD_of_mem hL hfs.reg hfs.nodup hmem hlo hhi]
    simp
  · have hmasks := Bool.eq_false_iff.mpr (mt (masks_getLsbD_iff hL).mp hheld)
    have hnot : ∀ p ∈ fs, ¬ Holds L p.1 j := fun p hp h => hheld ⟨p, hp, h⟩
    rw [hmasks, pack, insFields_getLsbD_of_not hnot, insFields_getLsbD_of_not hnot]
    simp [hj]

end Packed

/-! ## The words of CCR, CSR and SecAttr (10_state.md R32, R34 to R36) -/

section Words

variable {L : Layout}

/-- The fields that a word of CCR is packed from (10_state.md R32). -/
def ccrFields (c : Ccr) : List (Fld × Word) :=
  [(.en, .ofBool c.en), (.susp, .ofBool c.susp), (.tcie, .ofBool c.ie.tc), (.htie, .ofBool c.ie.ht),
    (.dteie, .ofBool c.ie.dte), (.uleie, .ofBool c.ie.ule), (.useie, .ofBool c.ie.use),
    (.suspie, .ofBool c.ie.suspf), (.toie, .ofBool c.ie.tov), (.prio, c.prio)]

theorem ccrWord_eq (L : Layout) (c : Ccr) : ccrWord L c = pack L (ccrFields c) := rfl

theorem ccrFields_oneRegister (c : Ccr) : OneRegister .ccr (ccrFields c) :=
  ⟨by simp [ccrFields, Fld.reg], by simp [ccrFields]⟩

theorem test_ccrWord (hL : L.wf = true) (c : Ccr) {f : Fld} (hreg : f.reg = .ccr) (hwidth : f.width L = 1) :
    f.test L (ccrWord L c) = given ((ccrFields c).lookup ·) f false :=
  test_pack_given hL (ccrFields_oneRegister c) hreg hwidth

theorem ofEnables_ccrWord (hL : L.wf = true) (c : Ccr) : FlagSet.ofEnables L (ccrWord L c) = c.ie := by
  obtain ⟨en, susp, ⟨ht, tc, suspf, dte, use, ule, tov⟩, prio⟩ := c
  simp only [FlagSet.ofEnables, FlagSet.mk.injEq]
  refine ⟨?_, ?_, ?_, ?_, ?_, ?_, ?_⟩ <;> exact (test_ccrWord hL _ rfl rfl).trans (ofBool_getLsbD_zero _)

/-- The fields that a word of flags is packed from (10_state.md R34). -/
def flagFields (f : FlagSet) : List (Fld × Word) :=
  [(.tc, .ofBool f.tc), (.ht, .ofBool f.ht), (.dte, .ofBool f.dte), (.ule, .ofBool f.ule), (.use, .ofBool f.use),
    (.suspf, .ofBool f.suspf), (.tov, .ofBool f.tov)]

theorem toWord_eq (L : Layout) (f : FlagSet) : f.toWord L = pack L (flagFields f) := rfl

/-- The fields that a word of CSR is packed from (10_state.md R34). -/
def csrFields (c : Csr) : List (Fld × Word) := (.idle, .ofBool c.idle) :: flagFields c.flags

theorem csrWord_eq (L : Layout) (c : Csr) : csrWord L c = pack L (csrFields c) := rfl

theorem csrFields_oneRegister (c : Csr) : OneRegister .csr (csrFields c) :=
  ⟨by simp [csrFields, flagFields, Fld.reg], by simp [csrFields, flagFields]⟩

theorem flagFields_oneRegister (f : FlagSet) : OneRegister .csr (flagFields f) :=
  ⟨by simp [flagFields, Fld.reg], by simp [flagFields]⟩

theorem test_csrWord (hL : L.wf = true) (c : Csr) {f : Fld} (hreg : f.reg = .csr) (hwidth : f.width L = 1) :
    f.test L (csrWord L c) = given ((csrFields c).lookup ·) f false :=
  test_pack_given hL (csrFields_oneRegister c) hreg hwidth

theorem ofWord_csrWord (hL : L.wf = true) (c : Csr) : FlagSet.ofWord L (csrWord L c) = c.flags := by
  obtain ⟨idle, ht, tc, suspf, dte, use, ule, tov⟩ := c
  simp only [FlagSet.ofWord, FlagSet.mk.injEq]
  refine ⟨?_, ?_, ?_, ?_, ?_, ?_, ?_⟩ <;> exact (test_csrWord hL _ rfl rfl).trans (ofBool_getLsbD_zero _)

/-- The bits of all the flags are those of their fields. -/
theorem allFlags_getLsbD (hL : L.wf = true) {f : Fld} {j : Nat} (hf : (f, Word.ofBool true) ∈ flagFields allFlags)
    (hwidth : f.width L = 1) (hj : Holds L f j) : (allFlags.toWord L).getLsbD j = true := by
  have hfields := flagFields_oneRegister allFlags
  obtain ⟨hlo, hhi⟩ := hj
  rw [toWord_eq, pack, insFields_getLsbD_of_mem hL hfields.reg hfields.nodup hf hlo hhi,
    show j - f.lo L = 0 by omega, ofBool_getLsbD_zero]

/-- CSR reads 0 outside IDLE and the flags (R141). -/
theorem csrWord_no_other_bit (hL : L.wf = true) (c : Csr) :
    csrWord L c &&& ~~~(Fld.idle.mask L ||| allFlags.toWord L) = 0 := by
  refine and_not_eq_zero_iff.mpr fun j hbit => ?_
  obtain ⟨p, hp, hj⟩ := holds_of_pack_getLsbD (csrWord_eq L c ▸ hbit)
  rw [BitVec.getLsbD_or, Bool.or_eq_true]
  rcases List.mem_cons.mp hp with rfl | hflag
  · exact .inl ((mask_getLsbD_iff hL).mpr hj)
  · refine .inr ?_
    simp only [flagFields, List.mem_cons, List.not_mem_nil, or_false] at hflag
    rcases hflag with rfl | rfl | rfl | rfl | rfl | rfl | rfl <;>
      exact allFlags_getLsbD hL (by simp [flagFields, allFlags]) rfl hj

/-- The fields that a word of SecAttr is packed from (10_state.md R36; log 33). -/
def secFields (a : SecAttr) : List (Fld × Word) := [(.chSec, .ofBool a.chSec), (.chPriv, .ofBool a.chPriv)]

theorem secAttrWord_eq (L : Layout) (a : SecAttr) : secAttrWord L a = pack L (secFields a) := rfl

theorem secFields_oneRegister (a : SecAttr) : OneRegister .secAttr (secFields a) :=
  ⟨by simp [secFields, Fld.reg], by simp [secFields]⟩

theorem secAttrOf_secAttrWord (hL : L.wf = true) (a : SecAttr) : secAttrOf L (secAttrWord L a) = a := by
  have htest {f : Fld} (hreg : f.reg = .secAttr) (hwidth : f.width L = 1) :
      f.test L (secAttrWord L a) = given ((secFields a).lookup ·) f false :=
    test_pack_given hL (secFields_oneRegister a) hreg hwidth
  rw [secAttrOf, htest rfl rfl, htest rfl rfl]
  exact congrArg₂ SecAttr.mk (ofBool_getLsbD_zero _) (ofBool_getLsbD_zero _)

/-- SecAttr reads 0 outside its two fields (R141; log 33). -/
theorem secAttrWord_no_other_bit (hL : L.wf = true) (a : SecAttr) :
    secAttrWord L a &&& ~~~(Fld.chSec.mask L ||| Fld.chPriv.mask L) = 0 := by
  refine and_not_eq_zero_iff.mpr fun j hbit => ?_
  obtain ⟨p, hp, hj⟩ := holds_of_pack_getLsbD (secAttrWord_eq L a ▸ hbit)
  rw [BitVec.getLsbD_or, Bool.or_eq_true]
  simp only [secFields, List.mem_cons, List.not_mem_nil, or_false] at hp
  rcases hp with rfl | rfl
  · exact .inl ((mask_getLsbD_iff hL).mpr hj)
  · exact .inr ((mask_getLsbD_iff hL).mpr hj)

end Words

/-- Settles O35: every register read answers with the register, and the words of CCR, CSR and SecAttr read back as the
fields they are packed from. -/
theorem registerReadResult : Obligations.RegisterReadResult := by
  unfold Obligations.RegisterReadResult
  intro ch s hr hch hk L c reads
  have hL : L.wf = true := Cfg.wf_layout hk
  have hread (r : Reg) : reads r (readReg s.cfg c r) := micro_collect hr hch r
  have hsec (on : Bool) (h : s.cfg.features.security = on) :
      reads .secAttr (if on then secAttrWord L c.secAttr else 0) := h ▸ hread .secAttr
  refine ⟨⟨hread .ctr1, hread .ctr2, hread .csar, hread .cdar, hread .cllr⟩, hread .cbr1, hread .ctr3, hread .cbr2,
    hread .clbar, hread .cfcr, hsec false, fun hon => ?secAttr, ?ccr, ?csr, ?u5⟩
  case secAttr =>
    have hback := secAttrOf_secAttrWord hL c.secAttr
    exact ⟨_, hsec true hon, congrArg SecAttr.chSec hback, congrArg SecAttr.chPriv hback,
      secAttrWord_no_other_bit hL c.secAttr⟩
  case ccr =>
    refine ⟨_, hread .ccr, ?_, ?_, test_ccrWord hL c.ccr rfl rfl, ofEnables_ccrWord hL c.ccr, ?_⟩
    · exact (test_ccrWord hL c.ccr rfl rfl).trans (ofBool_getLsbD_zero _)
    · exact (test_ccrWord hL c.ccr rfl rfl).trans (ofBool_getLsbD_zero _)
    · exact get_pack hL (ccrFields_oneRegister c.ccr) (by simp [ccrFields])
  case csr =>
    exact ⟨_, hread .csr, micro_collect hr hch .csr,
      (test_csrWord hL c.csr rfl rfl).trans (ofBool_getLsbD_zero _), ofWord_csrWord hL c.csr,
      csrWord_no_other_bit hL c.csr⟩
  case u5 =>
    intro hu5
    rw [hu5]
    decide

/-! ## One write of CCR (40_register_file.md R142, R143; log 17) -/

section CcrWrites

variable {k : Cfg} {val : Fld → Option Word} {c : Channel}

/-- The effect on field `f` of a write of CCR that gives it the value `val f`, if any. -/
def ccrStep (k : Cfg) (val : Fld → Option Word) (c : Channel) (f : Fld) : Channel :=
  match val f with
  | some v => ccrFieldWrite k f v c
  | none => c

theorem ccrUpdate_eq_foldl (k : Cfg) (fs : List (Fld × Word)) (c : Channel) :
    ccrUpdate k fs c = ccrOrder.foldl (ccrStep k (fs.lookup ·)) c := rfl

theorem ccrStep_en : ccrStep k val c .en = if given val .en false then chEnable k c else c := by
  unfold ccrStep given
  cases val .en <;> rfl

theorem ccrStep_reset : ccrStep k val c .reset = if given val .reset false then wiped c else c := by
  unfold ccrStep given
  cases val .reset <;> rfl

theorem ccrStep_susp : ccrStep k val c .susp =
    if given val .susp false then { c with ccr := suspRequested c }
    else if given val .susp true then c else resumed c := by
  unfold ccrStep given
  cases val .susp with
  | none => rfl
  | some v =>
    simp only [ccrFieldWrite, chSuspReq_eq, chResume_eq]
    split_ifs <;> rfl

/-- PRIO after a write that gives it a value, if any. -/
def prioGiven (k : Cfg) (val : Fld → Option Word) (old : Word) : Word :=
  match val .prio with
  | some v => v &&& Fld.prio.ones k.layout
  | none => old

theorem ccrStep_prio : ccrStep k val c .prio =
    { c with ccr := { c.ccr with prio := prioGiven k val c.ccr.prio } } := by
  unfold ccrStep prioGiven
  cases val .prio <;> rfl

/-- The enables of CCR, in the order of one write (log 17). -/
def enableFields : List Fld := [.tcie, .htie, .dteie, .uleie, .useie, .suspie, .toie]

/-- The enables after a write that gives field `f` the value `val f`, if any. -/
def enablesGiven (val : Fld → Option Word) (e : FlagSet) : FlagSet where
  ht := given val .htie e.ht
  tc := given val .tcie e.tc
  suspf := given val .suspie e.suspf
  dte := given val .dteie e.dte
  use := given val .useie e.use
  ule := given val .uleie e.ule
  tov := given val .toie e.tov

/-- The enable that a field of CCR is. -/
def enableBit (f : Fld) (e : FlagSet) : Bool :=
  match f with
  | .tcie => e.tc
  | .htie => e.ht
  | .dteie => e.dte
  | .uleie => e.ule
  | .useie => e.use
  | .suspie => e.suspf
  | .toie => e.tov
  | _ => false

theorem ieField_enableBit (f : Fld) (e : FlagSet) : ieField f (enableBit f e) e = e := by
  cases f <;> rfl

/-- The enables with field `f` written. -/
def enableStep (val : Fld → Option Word) (e : FlagSet) (f : Fld) : FlagSet :=
  ieField f (given val f (enableBit f e)) e

theorem ccrStep_enable {f : Fld} (hf : f ∈ enableFields) :
    ccrStep k val c f = chIeWrite (enableStep val c.ccr.ie f) c := by
  unfold ccrStep enableStep given
  cases val f with
  | none => simp only [ieField_enableBit]; rfl
  | some v =>
    simp only [enableFields, List.mem_cons, List.not_mem_nil, or_false] at hf
    rcases hf with rfl | rfl | rfl | rfl | rfl | rfl | rfl <;> rfl

theorem foldl_enableStep (e : FlagSet) : enableFields.foldl (enableStep val) e = enablesGiven val e := by
  obtain ⟨ht, tc, suspf, dte, use, ule, tov⟩ := e
  simp only [enableFields, List.foldl_cons, List.foldl_nil, enableStep, ieField, enableBit, enablesGiven]

/-- The writes of enables change the enables only. -/
theorem foldl_chIeWrite (c : Channel) : ∀ order : List Fld,
    order.foldl (fun c f => chIeWrite (enableStep val c.ccr.ie f) c) c =
      chIeWrite (order.foldl (enableStep val) c.ccr.ie) c
  | [] => rfl
  | f :: order => foldl_chIeWrite (chIeWrite (enableStep val c.ccr.ie f) c) order

theorem foldl_ccrStep_enables (c : Channel) :
    enableFields.foldl (ccrStep k val) c = chIeWrite (enablesGiven val c.ccr.ie) c := by
  have hstep (c : Channel) : ∀ f ∈ enableFields, ccrStep k val c f = chIeWrite (enableStep val c.ccr.ie f) c :=
    fun f hf => ccrStep_enable hf
  rw [List.foldl_ext _ _ _ hstep, foldl_chIeWrite, foldl_enableStep]

/-- One write of CCR: EN, RESET, SUSP, then the enables and PRIO (log 17). -/
theorem foldl_ccrStep : ccrOrder.foldl (ccrStep k val) c = ccrWritten k val c := by
  have horder : ccrOrder = [.en, .reset, .susp] ++ enableFields ++ [.prio] := rfl
  unfold ccrWritten
  extract_lets bit enabled reset requested
  have hen : ccrStep k val c .en = enabled := ccrStep_en
  have hreset : ccrStep k val enabled .reset = reset := ccrStep_reset
  have hsusp : ccrStep k val reset .susp = requested := ccrStep_susp
  calc ccrOrder.foldl (ccrStep k val) c
      = ccrStep k val (enableFields.foldl (ccrStep k val) (ccrStep k val (ccrStep k val (ccrStep k val c .en) .reset)
          .susp)) .prio := by rw [horder, List.foldl_append, List.foldl_append]; rfl
    _ = ccrStep k val (chIeWrite (enablesGiven val requested.ccr.ie) requested) .prio := by
      rw [hen, hreset, hsusp, foldl_ccrStep_enables]
    _ = _ := ccrStep_prio

theorem ccrUpdate_eq (k : Cfg) (fs : List (Fld × Word)) (c : Channel) :
    ccrUpdate k fs c = ccrWritten k (fun f => fs.lookup f) c := (ccrUpdate_eq_foldl k fs c).trans foldl_ccrStep

/-- A word written to CCR names every field (R143). -/
theorem ccrWordWrite_eq (k : Cfg) (w : Word) (c : Channel) :
    ccrWordWrite k w c = ccrWritten k (fun f => some (f.get k.layout w)) c := by
  rw [ccrWordWrite, ccrUpdate_eq]
  rfl

end CcrWrites

/-! ## Writes of registers and of named fields (40_register_file.md R142, R143, R145, R146, R155) -/

section RegisterWrites

variable {k : Cfg} {c : Channel}

theorem writeReg_link {r : Reg} (h : isLinkReg r = true) (w : Word) :
    writeReg k r w c = linkWrite k.layout c r w := by
  cases r <;> first | rfl | cases h

theorem writeReg_secAttr (k : Cfg) (w : Word) (c : Channel) :
    writeReg k .secAttr w c =
      { c with secAttr := if k.features.security then secAttrOf k.layout w else c.secAttr } := by
  rw [writeReg]
  split <;> rfl

/-- A flag is kept by a write of CFCR that does not give its field an odd value (R146). -/
def kept (val : Fld → Option Word) (f : Fld) : Bool :=
  match val f with
  | some v => !v.getLsbD 0
  | none => true

theorem not_given (val : Fld → Option Word) (f : Fld) : (!given val f false) = kept val f := by
  unfold given kept
  cases val f <;> rfl

/-- The flags that a word packed from fields of CFCR names (R146). -/
theorem ofWord_pack {L : Layout} (hL : L.wf = true) {fs : List (Fld × Word)} (hfs : OneRegister .cfcr fs) :
    let val (f : Fld) := given (fs.lookup ·) f false
    FlagSet.ofWord L (pack L fs) =
      ⟨val .cht, val .ctc, val .csuspf, val .cdte, val .cuse, val .cule, val .ctov⟩ := by
  have htest (f : Fld) (hreg : f.reg = .cfcr) (hwidth : f.width L = 1) := test_pack_given hL hfs hreg hwidth
  simp only [FlagSet.ofWord, FlagSet.mk.injEq]
  exact ⟨htest .cht rfl rfl, htest .ctc rfl rfl, htest .csuspf rfl rfl, htest .cdte rfl rfl, htest .cuse rfl rfl,
    htest .cule rfl rfl, htest .ctov rfl rfl⟩

/-- A write of fields of CFCR, which reads 0, clears the flags whose fields get an odd value (R146). -/
theorem writeReg_cfcr (hk : k.wf = true) {fs : List (Fld × Word)} (hfs : OneRegister .cfcr fs) :
    writeReg k .cfcr (insFields k.layout fs 0) c = cfcrCleared (fun f => fs.lookup f) c := by
  have hflags := ofWord_pack (Cfg.wf_layout hk) hfs
  rw [pack] at hflags
  simp only [writeReg, chFlagClear, hflags, flagsDiff, flagsMap2, not_given]
  rfl

theorem lookup_singleton (f : Fld) (v : Word) :
    (fun g => [(f, v)].lookup g) = fun g => if g = f then some v else none := by
  funext g
  rw [List.lookup_cons, List.lookup_nil]
  by_cases h : g = f
  · rw [beq_iff_eq.mpr h, if_pos h]
  · rw [beq_eq_false_iff_ne.mpr h, if_neg h]

theorem secAttrOf_insFields {L : Layout} (hL : L.wf = true) {fs : List (Fld × Word)} (hfs : OneRegister .secAttr fs)
    (a : SecAttr) : secAttrOf L (insFields L fs (secAttrWord L a)) =
      ⟨given (fs.lookup ·) .chSec a.chSec, given (fs.lookup ·) .chPriv a.chPriv⟩ := by
  have hback := secAttrOf_secAttrWord hL a
  have hsec : Fld.chSec.test L (secAttrWord L a) = a.chSec := congrArg SecAttr.chSec hback
  have hpriv : Fld.chPriv.test L (secAttrWord L a) = a.chPriv := congrArg SecAttr.chPriv hback
  rw [secAttrOf, test_insFields hL hfs rfl rfl, test_insFields hL hfs rfl rfl, hsec, hpriv]

end RegisterWrites

/-- Settles O36: a row writes the register, as the update of each register says. -/
theorem registerWriteResult : Obligations.RegisterWriteResult := by
  unfold Obligations.RegisterWriteResult
  intro ch s w hr hch L writes
  have hwrite {r : Reg} (h : Writable s ch r) : writes r (writeReg s.cfg r w) :=
    microOk_go hr hch (runOp_regWrite_writable h w)
  have hcontrol (r : Reg) (h : isLinkReg r = false) : writes r (writeReg s.cfg r w) := hwrite (writable_of_control h)
  refine ⟨fun hen => ?link, hcontrol .csr rfl, hcontrol .cfcr rfl,
    (hcontrol .secAttr rfl).trans (okAfter_congr (writeReg_secAttr ..)),
    (hcontrol .ccr rfl).trans (okAfter_congr (ccrWordWrite_eq ..))⟩
  case link =>
    have hlink (r : Reg) : writes r (writeReg s.cfg r w) := hwrite (writable_of_disabled r hen)
    exact ⟨hlink .ctr1, hlink .ctr2, hlink .cbr1, hlink .csar, hlink .cdar,
      (hlink .ctr3).trans (okAfter_congr (linkWrite_ctr3 L _ w)),
      (hlink .cbr2).trans (okAfter_congr (linkWrite_cbr2 L _ w)), hlink .cllr, hlink .clbar⟩

section FieldWrites

variable {s : State} {ch : ChId} (hr : Ready s) (hch : Has s ch)

include hr hch

theorem microOk_linkFields (hen : (s.chan ch.toNat).ccr.en = false) {r : Reg} (hlink : isLinkReg r = true)
    (fs : List (Fld × Word)) : microOk ch (fieldOps ch r fs) s = okAfter s ch fun c =>
      linkWrite s.cfg.layout c r (insFields s.cfg.layout fs (readReg s.cfg (s.chan ch.toNat) r)) := by
  have hccr : r ≠ .ccr := by rintro rfl; cases hlink
  exact (microOk_fields hr hch hccr (writable_of_disabled r hen) fs).trans (okAfter_congr (writeReg_link hlink _))

theorem microOk_ccrWritten (fs : List (Fld × Word)) :
    microOk ch (fieldOps ch .ccr fs) s = okAfter s ch (ccrWritten s.cfg fun g => fs.lookup g) :=
  (microOk_ccrFields hr hch fs).trans (okAfter_congr (ccrUpdate_eq ..))

theorem microOk_cfcrFields (hk : s.cfg.wf = true) {fs : List (Fld × Word)} (hfs : OneRegister .cfcr fs) :
    microOk ch (fieldOps ch .cfcr fs) s = okAfter s ch (cfcrCleared fun g => fs.lookup g) :=
  (microOk_fields hr hch (by decide) (writable_of_control rfl) fs).trans (okAfter_congr (writeReg_cfcr hk hfs))

/-- CSR ignores writes (R143). -/
theorem microOk_csrFields (fs : List (Fld × Word)) : microOk ch (fieldOps ch .csr fs) s = okAfter s ch id :=
  microOk_fields hr hch (by decide) (writable_of_control rfl) fs

theorem microOk_secAttrFields (hk : s.cfg.wf = true) (hon : s.cfg.features.security = true)
    {fs : List (Fld × Word)} (hfs : OneRegister .secAttr fs) :
    microOk ch (fieldOps ch .secAttr fs) s = okAfter s ch fun c =>
      { c with secAttr :=
        ⟨given (fs.lookup ·) .chSec c.secAttr.chSec, given (fs.lookup ·) .chPriv c.secAttr.chPriv⟩ } := by
  refine (microOk_fields hr hch (by decide) (writable_of_control rfl) fs).trans (okAfter_congr ?_)
  simp only [writeReg_secAttr, readReg, hon, if_true, secAttrOf_insFields (Cfg.wf_layout hk) hfs]

/-- With the feature off SecAttr ignores writes (R155; log 33). -/
theorem microOk_secAttrFields_off (hoff : s.cfg.features.security = false) (fs : List (Fld × Word)) :
    microOk ch (fieldOps ch .secAttr fs) s = okAfter s ch id := by
  refine (microOk_fields hr hch (by decide) (writable_of_control rfl) fs).trans (okAfter_congr ?_)
  simp [writeReg, hoff]

end FieldWrites

theorem exec_fieldWrite {f : Fld} {r : Reg} (h : f.reg = r) (ch : ChId) (v : Word) (s : State) :
    exec (.fieldWrite ch f v) s = microOk ch (fieldOps ch r [(f, v)]) s := h ▸ rfl

theorem exec_ctrlWordWrite (ch : ChId) (r : Reg) (fs : List (Fld × Word)) (s : State) :
    exec (.ctrlWordWrite ch r fs) s = microOk ch (fieldOps ch r fs) s := rfl

/-- Settles O38: CCR takes its fields in one access; any other register is read, its named fields replaced, and
written. -/
theorem fieldWriteResult : Obligations.FieldWriteResult := by
  unfold Obligations.FieldWriteResult
  intro ch s hr hch hk L t
  have hL : L.wf = true := Cfg.wf_layout hk
  refine ⟨fun hen => ⟨fun f v hlink => ?field, fun r fs hlink hwf => ?fields⟩, fun f v hf => ?ccr,
    fun fs _ => microOk_ccrWritten hr hch fs, fun f v hf => ?cfcr,
    fun fs hwf => microOk_cfcrFields hr hch hk (oneRegister_of_wf hwf), fun f v hf => ?csr,
    fun fs => microOk_csrFields hr hch fs, fun v hon => ?secOn, fun hoff f v hf => ?secOff⟩
  case field => exact (exec_fieldWrite rfl ch v s).trans (microOk_linkFields hr hch hen hlink [(f, v)])
  case fields =>
    rw [exec_ctrlWordWrite, microOk_linkFields hr hch hen hlink, insFields_eq hL (oneRegister_of_wf hwf)]
  case ccr => rw [exec_fieldWrite hf, microOk_ccrWritten hr hch, lookup_singleton]
  case cfcr =>
    rw [exec_fieldWrite hf, microOk_cfcrFields hr hch hk (hf ▸ oneRegister_singleton f v), lookup_singleton]
  case csr => rw [exec_fieldWrite hf, microOk_csrFields hr hch]
  case secOn =>
    have hsec {fs : List (Fld × Word)} (hfs : OneRegister .secAttr fs) := microOk_secAttrFields hr hch hk hon hfs
    exact ⟨hsec (oneRegister_singleton .chSec v), hsec (oneRegister_singleton .chPriv v),
      fun u => hsec (fs := [(.chSec, v), (.chPriv, u)]) ⟨by simp [Fld.reg], by simp⟩⟩
  case secOff => rw [exec_fieldWrite hf, microOk_secAttrFields_off hr hch hoff]

/-! ## The load of a node (40_register_file.md R150, R151; 20_memory.md R78) -/

/-- Words read one after the other for rising indices: each index gets the word whose number is how many of the indices
lie below it. -/
theorem zip_range_map (g : Nat → Word) {l : List Nat} (h : l.Pairwise (· < ·)) :
    l.zip ((List.range l.length).map g) = l.map fun i => (i, g (l.filter (· < i)).length) := by
  induction l generalizing g with
  | nil => rfl
  | cons a l ih =>
    obtain ⟨hbelow, hl⟩ := List.pairwise_cons.mp h
    have hfirst : (a :: l).filter (· < a) = [] := by
      simpa using fun i hi => (hbelow i hi).le
    have hrest : ∀ i ∈ l, (a :: l).filter (· < i) = a :: l.filter (· < i) := fun i hi => by
      simp [hbelow i hi]
    simp only [List.length_cons, List.range_succ_eq_map, List.map_cons, List.map_map, List.zip_cons_cons, hfirst,
      List.length_nil]
    refine congrArg _ ((ih (g ∘ Nat.succ) hl).trans (List.map_congr_left fun i hi => ?_))
    rw [hrest i hi]
    rfl

theorem channelRegs_eq (c : Channel) : channelRegs c = banks c := rfl

theorem banks_sorted (c : Channel) : (banks c).Pairwise (· < ·) := by
  unfold banks
  split <;> decide

section Load

variable {s : State} {ch : ChId}

/-- The word that a fetch reads for bank index `i`. -/
def bankWord (s : State) (c : Channel) (i : Nat) : Word :=
  readWord s.mem (wordAddr (linkPtr c) (fetchPos s.cfg.layout c i))

/-- Bank index `i` loaded into `d`, when the mask of `c` selects it. -/
def loadBank (s : State) (c d : Channel) (i : Nat) : Channel :=
  if (linkUpd s.cfg.layout c.cllr).getLsbD i then linkWrite s.cfg.layout d (bankReg i) (bankWord s c i) else d

/-- The registers of a fetch with their words (R150). -/
theorem fetchWords_eq (i : Nat) (s : State) :
    fetchWords i s =
      ((banks (s.chan i)).filter fun j => (linkUpd s.cfg.layout (s.chan i).cllr).getLsbD j).map
        fun j => (bankReg j, bankWord s (s.chan i) j) := by
  have hsorted := (banks_sorted (s.chan i)).filter fun j => (linkUpd s.cfg.layout (s.chan i).cllr).getLsbD j
  rw [fetchWords, fetchCount, fetchRegs, channelRegs_eq, List.length_map, List.zip_map_left, zip_range_map _ hsorted,
    List.map_map]
  refine List.map_congr_left fun j _ => ?_
  simp [bankWord, fetchPos, List.filter_filter]

theorem loadWords_eq (i : Nat) (s : State) :
    loadWords s.cfg.layout (s.chan i) (fetchWords i s) =
      (banks (s.chan i)).foldl (loadBank s (s.chan i)) (s.chan i) := by
  rw [fetchWords_eq, loadWords, List.foldl_map, List.foldl_filter]
  rfl

variable {c d : Channel}

theorem loadBank_ctr1 : loadBank s c d 0 = { d with ctr1 := fetched s c 0 d.ctr1 } := by
  unfold loadBank fetched; split_ifs <;> rfl

theorem loadBank_ctr2 : loadBank s c d 1 = { d with ctr2 := fetched s c 1 d.ctr2 } := by
  unfold loadBank fetched; split_ifs <;> rfl

theorem uCbr1_eq (L : Layout) (w : Word) : (linkUpd L w).getLsbD 2 = Fld.uCbr1.test L w := linkUpd_getLsbD L w 2

theorem loadBank_cbr1 : loadBank s c d 2 =
    { d with cbr1 := if Fld.uCbr1.test s.cfg.layout c.cllr then cbr1View s.cfg.layout d (fetched s c 2 d.cbr1)
      else d.cbr1 } := by
  unfold loadBank fetched
  simp only [uCbr1_eq]
  split_ifs <;> rfl

theorem loadBank_csar : loadBank s c d 3 = { d with csar := fetched s c 3 d.csar } := by
  unfold loadBank fetched; split_ifs <;> rfl

theorem loadBank_cdar : loadBank s c d 4 = { d with cdar := fetched s c 4 d.cdar } := by
  unfold loadBank fetched; split_ifs <;> rfl

theorem loadBank_ctr3 : loadBank s c d 5 = { d with ctr3 := if d.twoD then fetched s c 5 d.ctr3 else d.ctr3 } := by
  unfold loadBank fetched bankReg; simp only [linkWrite_ctr3]; split_ifs <;> rfl

theorem loadBank_cbr2 : loadBank s c d 6 = { d with cbr2 := if d.twoD then fetched s c 6 d.cbr2 else d.cbr2 } := by
  unfold loadBank fetched bankReg; simp only [linkWrite_cbr2]; split_ifs <;> rfl

theorem loadBank_cllr : loadBank s c d 7 = { d with cllr := fetched s c 7 d.cllr } := by
  unfold loadBank fetched; split_ifs <;> rfl

/-- A fetch loads the registers that the channel has, one by one, from the words of R150. -/
theorem loadWords_eq_loaded (ch : ChId) (s : State) :
    loadWords s.cfg.layout (s.chan ch.toNat) (fetchWords ch.toNat s) = loaded s ch := by
  rw [loadWords_eq]
  unfold loaded
  generalize s.chan ch.toNat = c
  dsimp only
  cases htwoD : c.twoD with
  | true =>
    have hbanks : banks c = [0, 1, 2, 3, 4, 5, 6, 7] := by simp [banks, htwoD]
    simp only [hbanks, List.foldl_cons, List.foldl_nil, loadBank_ctr1, loadBank_ctr2, loadBank_cbr1, loadBank_csar,
      loadBank_cdar, loadBank_ctr3, loadBank_cbr2, loadBank_cllr, cbr1View, htwoD, if_true]
  | false =>
    have hbanks : banks c = [0, 1, 2, 3, 4, 7] := by simp [banks, htwoD]
    simp only [hbanks, List.foldl_cons, List.foldl_nil, loadBank_ctr1, loadBank_ctr2, loadBank_cbr1, loadBank_csar,
      loadBank_cdar, loadBank_cllr, cbr1View, htwoD, Bool.false_eq_true, if_false]

theorem fetchRegs_length (L : Layout) (c : Channel) :
    (fetchRegs L c).length = ((banks c).filter fun j => (linkUpd L c.cllr).getLsbD j).length := List.length_map _

theorem fetchable_iff (ch : ChId) (s : State) :
    Fetchable s ch ↔
      crossesWindow s.cfg.layout (s.chan ch.toNat) = false ∧ fetchAdmitted ch.toNat s = true := by
  simp only [crossesWindow, fetchAdmitted, fetchCount, fetchRegs_length, decide_eq_false_iff_not, not_lt,
    List.all_eq_true, List.mem_range]
  rfl

theorem linkLoad_fetchable {ch : ChId} {s : State} (h : Fetchable s ch) :
    linkLoad ch.toNat s = some (loaded s ch) := by
  obtain ⟨hwindow, hadmitted⟩ := (fetchable_iff ch s).mp h
  simp [linkLoad, hwindow, hadmitted, loadWords_eq_loaded]

theorem linkLoad_not_fetchable {ch : ChId} {s : State} (h : ¬ Fetchable s ch) : linkLoad ch.toNat s = none := by
  rw [fetchable_iff, not_and_or, Bool.not_eq_false, Bool.not_eq_true] at h
  rcases h with hwindow | hadmitted
  · simp [linkLoad, hwindow]
  · simp [linkLoad, hadmitted]

end Load

/-- Settles O40: a fetch that is admitted and stays in the window loads the words of `fetchWords_eq`, any other raises
ULE. -/
theorem linkLoadResult : Obligations.LinkLoadResult := by
  unfold Obligations.LinkLoadResult
  intro ch s hch hen hpaused
  have hhas : s.hasChan ch.toNat = true := decide_eq_true hch
  have hrunning : running (s.chan ch.toNat) = true := by simp [running, hen, hpaused]
  change (_ → execLinkLoad ch s = _) ∧ (_ → execLinkLoad ch s = _)
  refine ⟨fun hfetch => ?loads, fun hfetch => ?fails⟩
  case loads => simp [execLinkLoad, hhas, hrunning, linkLoad_fetchable hfetch]
  case fails =>
    simp [execLinkLoad, hhas, hrunning, linkLoad_not_fetchable hfetch, State.onChan, chRaiseFatal_ule]

end Sys2Proof.RegisterFile
end

section
/-! The node codec (41_node_codec.md): `fill_node` and `decode_node` answer the packed fields and the fields read back
(O52), and decoding a filled node gives the configuration and the kind back in every well-formed layout (O53). -/

namespace Sys2Proof.NodeCodec

open Sys2Proof.Machine Sys2Proof.Claims Sys2Proof.LinkWord Sys2Proof.RegisterFile

/-! ## Running the codec commands (41_node_codec.md R174, R177) -/

section Runs

variable {s : State}

/-- A command of one reply changes nothing else. -/
theorem runHost_ret (hr : Ready s) (r : Reply) : runHost [.ret r] s = .next (s.answer r) := by
  obtain ⟨hpending, hquantum⟩ := hr
  refine runHost_done (n := 1) hpending (by omega) ?_ (by simp) (by simp)
  exact (runOps_go (runOp_ret r s)).trans (runOps_nil _ _)

theorem exec_fillNode (hr : Ready s) (kind : Kind) (c : NodeConfig) :
    exec (.fillNode kind c) s = answered s (.node (fillNode s.cfg kind c)) := runHost_ret hr _

theorem exec_decodeNode (hr : Ready s) (n : Node) : exec (.decodeNode n) s =
    answered s (.nodeConfig (nodeToConfig s.cfg.layout n).1 (nodeToConfig s.cfg.layout n).2) := runHost_ret hr _

end Runs

/-! ## Codes of the enumerations (41_node_codec.md R174, R177) -/

theorem hwMode_code (m : HwMode) : m.code = .ofBool (m == .block) := by cases m <;> rfl
theorem dir_code (d : Dir) : d.code = .ofBool (d == .subtract) := by cases d <;> rfl

theorem widthOf_code (w : Width) : widthOf w.code = w := by cases w <;> rfl
theorem polarityOf_code (p : Polarity) : polarityOf p.code = p := by cases p <;> rfl
theorem trigModeOf_code (m : TrigMode) : trigModeOf m.code = m := by cases m <;> rfl
theorem incOf_code (i : Inc) : incOf (i.code.getLsbD 0) = i := by cases i <;> rfl
theorem portOf_code (p : Port) : portOf (p.code.getLsbD 0) = p := by cases p <;> rfl
theorem hwModeOf_code (m : HwMode) : hwModeOf (m.code.getLsbD 0) = m := by cases m <;> rfl
theorem dirOf_code (d : Dir) : dirOf (d.code.getLsbD 0) = d := by cases d <;> rfl

/-- Codes of two bits fit their fields. -/
theorem width_code_lt (w : Width) : w.code.toNat < 2 ^ 2 := by cases w <;> decide
theorem polarity_code_lt (p : Polarity) : p.code.toNat < 2 ^ 2 := by cases p <;> decide
theorem trigMode_code_lt (m : TrigMode) : m.code.toNat < 2 ^ 2 := by cases m <;> decide

/-! ## The words of a filled node (41_node_codec.md R174, R175) -/

/-- The fields that CTR1 of a node is packed from. -/
def ctr1Fields (k : Cfg) (c : NodeConfig) : List (Fld × Word) :=
  widthIncFields c.srcWidth c.dstWidth c.srcInc c.dstInc ++ burstFields c.srcBurstLen c.dstBurstLen
    ++ dataHandlingFields c.data ++ portFields c.srcPort c.dstPort
    ++ sideSecFields (k.features.security && c.srcSec) (k.features.security && c.dstSec)

/-- The fields that CTR2 of a node is packed from. -/
def ctr2Fields (c : NodeConfig) : List (Fld × Word) :=
  requestFields c.request c.direction ++ [(.blockReq, c.hwMode.code)] ++ triggerFields c.trigger ++ [(.eventMode, 0)]

/-- The fields that CBR1 of a 2-D node is packed from. -/
def cbr1Fields (c : NodeConfig) (r : RepeatBlock) : List (Fld × Word) := [(.bndt, c.size)] ++ rbCbr1Fields r

theorem fillCtr1_eq (k : Cfg) (c : NodeConfig) : fillCtr1 k c = pack k.layout (ctr1Fields k c) := rfl

theorem fillCtr2_eq (L : Layout) (c : NodeConfig) : fillCtr2 L c = pack L (ctr2Fields c) := rfl

theorem fillNode_linear (k : Cfg) (c : NodeConfig) : fillNode k .linear c =
    .linear (fillCtr1 k c) (fillCtr2 k.layout c) (fillCbr1 k.layout c) c.srcAddr c.dstAddr 0 := rfl

theorem fillNode_twoDimensional (k : Cfg) {c : NodeConfig} {r : RepeatBlock} (h : c.rb = some r) :
    fillNode k .twoDimensional c = .twoDimensional (fillCtr1 k c) (fillCtr2 k.layout c)
      (fillCbr1 k.layout c ||| pack k.layout (rbCbr1Fields r)) c.srcAddr c.dstAddr
      (pack k.layout (rbCtr3Fields r)) (pack k.layout (rbCbr2Fields r)) 0 := by
  simp [fillNode, h]

/-- CTR2 with the hardware request mode as a Boolean. -/
theorem fillCtr2_blockReq (L : Layout) (c : NodeConfig) : fillCtr2 L c =
    pack L (requestFields c.request c.direction ++ [(.blockReq, .ofBool (c.hwMode == .block))]
      ++ triggerFields c.trigger ++ [(.eventMode, 0)]) := by
  rw [fillCtr2, hwMode_code]

/-- The fields of the repeat block in CBR1 with the directions as Booleans. -/
theorem rbCbr1Fields_eq (r : RepeatBlock) : rbCbr1Fields r =
    [(.brc, r.blockCount - 1), (.srcDec, .ofBool (r.srcBurstDir == .subtract)),
      (.dstDec, .ofBool (r.dstBurstDir == .subtract)), (.blkSrcDec, .ofBool (r.srcBlockDir == .subtract)),
      (.blkDstDec, .ofBool (r.dstBlockDir == .subtract))] := by
  simp only [rbCbr1Fields, dir_code]

/-- Settles O52: both commands are one reply, whose words and fields are those of the codec's functions. -/
theorem codecResult : Obligations.CodecResult := by
  unfold Obligations.CodecResult
  intro s c hr
  refine ⟨?fillLinear, fun r hrb => ?fillTwoD, fun a b d e f g => ?decodeLinear, fun a b d e f x y g => ?decodeTwoD⟩
  case fillLinear =>
    rw [exec_fillNode hr, fillNode_linear, fillCtr2_blockReq]
    rfl
  case fillTwoD =>
    rw [exec_fillNode hr, fillNode_twoDimensional s.cfg hrb, fillCtr2_blockReq, rbCbr1Fields_eq]
    rfl
  case decodeLinear => exact exec_decodeNode hr (.linear a b d e f g)
  case decodeTwoD => exact exec_decodeNode hr (.twoDimensional a b d e f x y g)

/-! ## Reading a packed word back (30_encoding.md R109) -/

section Packed

variable {L : Layout} {r : Reg} {fs gs : List (Fld × Word)} {f : Fld} {v : Word}

/-- A field of a packed word reads as the value packed into it, when the value fits. -/
theorem get_pack_of_fits (hL : L.wf = true) (hfs : OneRegister r fs) (hv : fs.lookup f = some v)
    (hfits : v.toNat < 2 ^ f.width L) : f.get L (pack L fs) = v := by
  obtain ⟨before, after, hsplit, -⟩ := List.lookup_eq_some_iff.mp hv
  rw [get_pack hL hfs (by simp [hsplit] : (f, v) ∈ fs), Fld.and_ones_of_lt f L v hfits]

/-- A one-bit field of a packed word tests as bit 0 of the value packed into it. -/
theorem test_pack_of_lookup (hL : L.wf = true) (hfs : OneRegister r fs) (hv : fs.lookup f = some v)
    (hwidth : f.width L = 1) : f.test L (pack L fs) = v.getLsbD 0 := by
  obtain ⟨before, after, hsplit, -⟩ := List.lookup_eq_some_iff.mp hv
  have hreg : f.reg = r := hfs.reg (f, v) (by simp [hsplit])
  rw [test_pack_given hL hfs hreg hwidth, given, hv]

/-- Words packed from different fields of one register make up the word packed from all the fields. -/
theorem pack_append (hL : L.wf = true) (h : OneRegister r (fs ++ gs)) : pack L (fs ++ gs) = pack L fs ||| pack L gs := by
  obtain ⟨hreg, hnodup⟩ := h
  rw [List.map_append, List.nodup_append] at hnodup
  obtain ⟨-, hgs, hdiff⟩ := hnodup
  have hsplit : pack L (fs ++ gs) = insFields L gs (pack L fs) := List.foldl_append ..
  have hkept : pack L fs &&& ~~~(maskOf L gs) = pack L fs := by
    refine BitVec.eq_of_getLsbD_eq fun j hj => ?_
    rw [BitVec.getLsbD_and, BitVec.getLsbD_not]
    cases hbit : (pack L fs).getLsbD j with
    | false => rfl
    | true =>
      obtain ⟨p, hp, hheld⟩ := holds_of_pack_getLsbD hbit
      have hnone : (maskOf L gs).getLsbD j = false := by
        refine Bool.eq_false_iff.mpr fun hmask => ?_
        obtain ⟨q, hq, hheldq⟩ := (masks_getLsbD_iff hL).mp hmask
        have hregs : p.1.reg = q.1.reg :=
          (hreg p (List.mem_append_left gs hp)).trans (hreg q (List.mem_append_right fs hq)).symm
        exact hdiff p.1 (List.mem_map_of_mem hp) q.1 (List.mem_map_of_mem hq) (hheld.unique hL hheldq hregs)
      rw [hnone, decide_eq_true hj]; rfl
  rw [hsplit, insFields_eq hL ⟨fun p hp => hreg p (List.mem_append_right fs hp), hgs⟩, hkept]

end Packed

/-! ## Fields that read back (41_node_codec.md R172, R178) -/

/-- A legal count or length fits its field, stored as itself minus one (30_encoding.md R110, R111). -/
theorem burst_fits {n : Word} (h : burstLegal n = true) : (n - 1).toNat < 2 ^ 6 := by
  simp only [burstLegal, Bool.and_eq_true, decide_eq_true_eq] at h
  bv_omega

theorem blockCount_fits {n : Word} (h : blockCountLegal n = true) : (n - 1).toNat < 2 ^ 11 := by
  simp only [blockCountLegal, Bool.and_eq_true, decide_eq_true_eq] at h
  bv_omega

theorem size_fits {n : Word} (h : sizeLegal n = true) : n.toNat < 2 ^ 16 := by
  simp only [sizeLegal, Bool.and_eq_true, decide_eq_true_eq] at h
  omega

/-- What a valid configuration says of the fields that a node of any kind stores (41_node_codec.md R170, R172). -/
structure FieldsLegal (k : Cfg) (c : NodeConfig) : Prop where
  request : c.request.toNat < 2 ^ Fld.reqSel.width k.layout
  srcBurst : burstLegal c.srcBurstLen = true
  dstBurst : burstLegal c.dstBurstLen = true
  trigSource : c.trigger.source.toNat < 2 ^ Fld.trigSel.width k.layout
  padAlign : c.data.padAlign.toNat < 2 ^ 2
  srcSec : (k.features.security && c.srcSec) = c.srcSec
  dstSec : (k.features.security && c.dstSec) = c.dstSec
  size : sizeLegal c.size = true

theorem fieldsLegal_of_valid {k : Cfg} {kind : Kind} {c : NodeConfig} (h : validConfig k kind c = true) :
    FieldsLegal k c := by
  unfold validConfig at h
  simp only [triggerLegal, fitsField, dataHandlingLegal, Bool.and_eq_true, decide_eq_true_eq] at h
  obtain ⟨⟨⟨⟨⟨⟨⟨⟨⟨⟨⟨hrequest, -⟩, -⟩, hsrc⟩, hdst⟩, ⟨htrig, -⟩⟩, hpad⟩, hsec⟩, -⟩, -⟩, hsize⟩, -⟩ := h
  have hsides : (k.features.security && c.srcSec) = c.srcSec ∧ (k.features.security && c.dstSec) = c.dstSec := by
    cases hon : k.features.security with
    | true => exact ⟨Bool.true_and _, Bool.true_and _⟩
    | false =>
      have hclear : c.srcSec = false ∧ c.dstSec = false := by simpa [hon] using hsec
      exact ⟨hclear.1.symm, hclear.2.symm⟩
  exact ⟨hrequest, hsrc, hdst, htrig, hpad, hsides.1, hsides.2, hsize⟩

/-- The repeat-block record is there exactly for the 2-D kind (R172). -/
theorem valid_linear_rb {k : Cfg} {c : NodeConfig} (h : validConfig k .linear c = true) : c.rb = none := by
  unfold validConfig at h
  cases hrb : c.rb with
  | none => rfl
  | some r => simp [hrb] at h

theorem valid_twoDimensional_rb {k : Cfg} {c : NodeConfig} (h : validConfig k .twoDimensional c = true) :
    ∃ r, c.rb = some r ∧ repeatBlockLegal r = true := by
  unfold validConfig at h
  cases hrb : c.rb with
  | none => simp [hrb] at h
  | some r =>
    simp only [hrb, Bool.and_eq_true] at h
    obtain ⟨-, hrepeat⟩ := h
    exact ⟨r, rfl, hrepeat⟩

theorem ctr1Fields_oneRegister (k : Cfg) (c : NodeConfig) : OneRegister .ctr1 (ctr1Fields k c) := by
  constructor <;>
    simp [ctr1Fields, widthIncFields, burstFields, dataHandlingFields, portFields, sideSecFields, Fld.reg]

theorem ctr2Fields_oneRegister (c : NodeConfig) : OneRegister .ctr2 (ctr2Fields c) := by
  constructor <;> simp [ctr2Fields, requestFields, triggerFields, Fld.reg]

theorem cbr1Fields_oneRegister (c : NodeConfig) (r : RepeatBlock) : OneRegister .cbr1 (cbr1Fields c r) := by
  constructor <;> simp [cbr1Fields, rbCbr1Fields, Fld.reg]

theorem rbCtr3Fields_oneRegister (r : RepeatBlock) : OneRegister .ctr3 (rbCtr3Fields r) := by
  constructor <;> simp [rbCtr3Fields, Fld.reg]

theorem rbCbr2Fields_oneRegister (r : RepeatBlock) : OneRegister .cbr2 (rbCbr2Fields r) := by
  constructor <;> simp [rbCbr2Fields, Fld.reg]

section ReadBack

variable {k : Cfg} {c : NodeConfig} {f : Fld} {v : Word}

theorem get_fillCtr1 (hL : k.layout.wf = true) (hv : (ctr1Fields k c).lookup f = some v)
    (hfits : v.toNat < 2 ^ f.width k.layout) : f.get k.layout (fillCtr1 k c) = v :=
  (fillCtr1_eq k c) ▸ get_pack_of_fits hL (ctr1Fields_oneRegister k c) hv hfits

theorem test_fillCtr1 (hL : k.layout.wf = true) (hv : (ctr1Fields k c).lookup f = some v)
    (hwidth : f.width k.layout = 1) : f.test k.layout (fillCtr1 k c) = v.getLsbD 0 :=
  (fillCtr1_eq k c) ▸ test_pack_of_lookup hL (ctr1Fields_oneRegister k c) hv hwidth

theorem get_fillCtr2 (hL : k.layout.wf = true) (hv : (ctr2Fields c).lookup f = some v)
    (hfits : v.toNat < 2 ^ f.width k.layout) : f.get k.layout (fillCtr2 k.layout c) = v :=
  (fillCtr2_eq k.layout c) ▸ get_pack_of_fits hL (ctr2Fields_oneRegister c) hv hfits

theorem test_fillCtr2 (hL : k.layout.wf = true) (hv : (ctr2Fields c).lookup f = some v)
    (hwidth : f.width k.layout = 1) : f.test k.layout (fillCtr2 k.layout c) = v.getLsbD 0 :=
  (fillCtr2_eq k.layout c) ▸ test_pack_of_lookup hL (ctr2Fields_oneRegister c) hv hwidth

/-- The two bits of a direction tell the three directions apart (30_encoding.md R112). -/
theorem directionOf_fillCtr2 (hL : k.layout.wf = true) : directionOf k.layout (fillCtr2 k.layout c) = c.direction := by
  rw [directionOf, test_fillCtr2 (f := .swReq) hL rfl rfl, test_fillCtr2 (f := .dstReq) hL rfl rfl]
  cases c.direction <;> rfl

theorem triggerOf_fillCtr2 (hL : k.layout.wf = true) (h : FieldsLegal k c) :
    triggerOf k.layout (fillCtr2 k.layout c) = c.trigger := by
  rw [triggerOf, get_fillCtr2 (f := .trigSel) hL rfl h.trigSource,
    get_fillCtr2 (f := .trigPol) hL rfl (polarity_code_lt _), get_fillCtr2 (f := .trigMode) hL rfl (trigMode_code_lt _),
    polarityOf_code, trigModeOf_code]

theorem dataHandlingOf_fillCtr1 (hL : k.layout.wf = true) (h : FieldsLegal k c) :
    dataHandlingOf k.layout (fillCtr1 k c) = c.data := by
  rw [dataHandlingOf, test_fillCtr1 (f := .srcByteXchg) hL rfl rfl, test_fillCtr1 (f := .dstByteXchg) hL rfl rfl,
    test_fillCtr1 (f := .dstHalfXchg) hL rfl rfl, get_fillCtr1 (f := .padAlign) hL rfl h.padAlign]
  simp only [ofBool_getLsbD_zero]

/-- The words of a filled node read back as the configuration, with the size and the repeat block as CBR1, CTR3 and CBR2
give them. -/
theorem configOf_fill (hL : k.layout.wf = true) (h : FieldsLegal k c) {cbr1 : Word}
    (hsize : Fld.bndt.get k.layout cbr1 = c.size) :
    configOf k.layout (fillCtr1 k c) (fillCtr2 k.layout c) cbr1 c.srcAddr c.dstAddr c.rb = c := by
  rw [configOf, directionOf_fillCtr2 hL, triggerOf_fillCtr2 hL h, dataHandlingOf_fillCtr1 hL h, hsize,
    get_fillCtr2 (f := .reqSel) hL rfl h.request, test_fillCtr2 (f := .blockReq) hL rfl rfl,
    test_fillCtr1 (f := .srcInc) hL rfl rfl, test_fillCtr1 (f := .dstInc) hL rfl rfl,
    get_fillCtr1 (f := .srcWidth) hL rfl (width_code_lt _), get_fillCtr1 (f := .dstWidth) hL rfl (width_code_lt _),
    test_fillCtr1 (f := .srcPort) hL rfl rfl, test_fillCtr1 (f := .dstPort) hL rfl rfl,
    get_fillCtr1 (f := .srcBurst) hL rfl (burst_fits h.srcBurst),
    get_fillCtr1 (f := .dstBurst) hL rfl (burst_fits h.dstBurst),
    test_fillCtr1 (f := .srcSec) hL rfl rfl, test_fillCtr1 (f := .dstSec) hL rfl rfl]
  simp only [incOf_code, widthOf_code, hwModeOf_code, portOf_code, BitVec.sub_add_cancel, ofBool_getLsbD_zero, h.srcSec,
    h.dstSec]

/-- The size reads back from CBR1 of a linear node. -/
theorem bndt_fillCbr1 (hL : k.layout.wf = true) (h : FieldsLegal k c) :
    Fld.bndt.get k.layout (fillCbr1 k.layout c) = c.size :=
  get_pack_of_fits hL (oneRegister_singleton .bndt c.size) rfl (size_fits h.size)

variable {r : RepeatBlock}

/-- CBR1 of a 2-D node is one packed word. -/
theorem fillCbr1_twoDimensional (hL : k.layout.wf = true) :
    fillCbr1 k.layout c ||| pack k.layout (rbCbr1Fields r) = pack k.layout (cbr1Fields c r) :=
  (pack_append hL (cbr1Fields_oneRegister c r)).symm

theorem repeatBlockOf_fill (hL : k.layout.wf = true) (h : repeatBlockLegal r = true) :
    repeatBlockOf k.layout (pack k.layout (cbr1Fields c r)) (pack k.layout (rbCtr3Fields r))
      (pack k.layout (rbCbr2Fields r)) = r := by
  simp only [repeatBlockLegal, Bool.and_eq_true, decide_eq_true_eq] at h
  obtain ⟨⟨⟨⟨hcount, hsrcBurst⟩, hdstBurst⟩, hsrcBlock⟩, hdstBlock⟩ := h
  have hcbr1 := cbr1Fields_oneRegister c r
  rw [repeatBlockOf, get_pack_of_fits (f := .brc) hL hcbr1 rfl (blockCount_fits hcount),
    test_pack_of_lookup (f := .srcDec) hL hcbr1 rfl rfl, test_pack_of_lookup (f := .dstDec) hL hcbr1 rfl rfl,
    test_pack_of_lookup (f := .blkSrcDec) hL hcbr1 rfl rfl, test_pack_of_lookup (f := .blkDstDec) hL hcbr1 rfl rfl,
    get_pack_of_fits (f := .srcBurstOfs) hL (rbCtr3Fields_oneRegister r) rfl hsrcBurst,
    get_pack_of_fits (f := .dstBurstOfs) hL (rbCtr3Fields_oneRegister r) rfl hdstBurst,
    get_pack_of_fits (f := .blkSrcOfs) hL (rbCbr2Fields_oneRegister r) rfl hsrcBlock,
    get_pack_of_fits (f := .blkDstOfs) hL (rbCbr2Fields_oneRegister r) rfl hdstBlock]
  simp only [dirOf_code, BitVec.sub_add_cancel]

/-- The round-trip law of the codec (R178). -/
theorem nodeToConfig_fillNode (hL : k.layout.wf = true) {kind : Kind} (h : validConfig k kind c = true) :
    nodeToConfig k.layout (fillNode k kind c) = (c, kind) := by
  have hfields := fieldsLegal_of_valid h
  cases kind with
  | linear =>
    rw [fillNode_linear, nodeToConfig, ← valid_linear_rb h, configOf_fill hL hfields (bndt_fillCbr1 hL hfields)]
  | twoDimensional =>
    obtain ⟨r, hrb, hr⟩ := valid_twoDimensional_rb h
    have hsize : Fld.bndt.get k.layout (pack k.layout (cbr1Fields c r)) = c.size :=
      get_pack_of_fits hL (cbr1Fields_oneRegister c r) rfl (size_fits hfields.size)
    rw [fillNode_twoDimensional k hrb, fillCbr1_twoDimensional hL, nodeToConfig, repeatBlockOf_fill hL hr, ← hrb,
      configOf_fill hL hfields hsize]

end ReadBack

/-- Settles O53: `decode_node` answers what the round-trip law gives for the node that `fill_node` answered. -/
theorem fillDecodeRoundTrip : Obligations.FillDecodeRoundTrip := by
  unfold Obligations.FillDecodeRoundTrip
  intro s kind c hr hwf hvalid
  refine ⟨fillNode s.cfg kind c, exec_fillNode hr kind c, ?_⟩
  rw [exec_decodeNode hr, nodeToConfig_fillNode (Cfg.wf_layout hwf) hvalid]

end Sys2Proof.NodeCodec
end

section
/-! The queue commands (42_queue.md section 4): how the host operations of one command run one after the other, what the
structural operations answer (O54), and where a command is a precondition violation (O56). -/

namespace Sys2Proof.QueueEdits

open Sys2Proof.Machine Sys2Proof.Claims Sys2Proof.Environment Sys2Proof.Scope

/-! ## Runs of host operations (20_memory.md R86; log 2) -/

/-- The operations `ops` take `n` accesses and lead from `s` to `t`, whatever stands behind them. -/
def Runs (n : Nat) (ops : List HostOp) (s t : State) : Prop :=
  ∀ (m : Nat) (rest : List HostOp), runOps (n + m) (ops ++ rest) s = runOps m rest t

theorem Runs.nil (s : State) : Runs 0 [] s s := fun m rest => by rw [Nat.zero_add, List.nil_append]

theorem Runs.append {n m : Nat} {ops ops' : List HostOp} {s t u : State} (h : Runs n ops s t) (h' : Runs m ops' t u) :
    Runs (n + m) (ops ++ ops') s u := fun l rest => by
  rw [Nat.add_assoc, List.append_assoc, h, h']

/-- One operation, with what follows from it at once. -/
theorem Runs.op {n : Nat} {op : HostOp} {ops : List HostOp} {s t u : State} (hop : runOp op s = .go ops t)
    (h : Runs n ops t u) : Runs (n + 1) [op] s u := fun m rest => by
  rw [Nat.add_right_comm, List.singleton_append, runOps_go hop, h]

/-- One operation that nothing follows from. -/
theorem Runs.single {op : HostOp} {s t : State} (h : runOp op s = .go [] t) : Runs 1 [op] s t := .op h (.nil t)

/-- A command whose operations fit in its turn finishes in it. -/
theorem Runs.runHost {n : Nat} {ops : List HostOp} {s t : State} (h : Runs n ops s t) (hp : s.pending = [])
    (hq : n ≤ s.quantum) (hisr : t.isr = s.isr) (htodo : t.app.todo = s.app.todo) :
    Machine.runHost ops s = .next t := by
  refine runHost_done hp hq ?_ hisr htodo
  simpa [runOps_nil] using h 0 []

/-! ## Operations that store words only -/

/-- The operations only write memory, in any state by `f`, one access each. -/
structure Stores (ops : List HostOp) (f : Memory → Memory) : Prop where
  runs : ∀ s : State, Runs ops.length ops s { s with mem := f s.mem }

theorem Stores.nil : Stores [] fun m => m := ⟨Runs.nil⟩

theorem Stores.append {ops ops' : List HostOp} {f g : Memory → Memory} (h : Stores ops f) (h' : Stores ops' g) :
    Stores (ops ++ ops') fun m => g (f m) where
  runs s := by
    rw [List.length_append]
    exact (h.runs s).append (h'.runs { s with mem := f s.mem })

theorem Stores.memWrite (a w : Word) : Stores [.memWrite a w] (writeWord · a w) :=
  ⟨fun s => Runs.single (runOp_memWrite a w s)⟩

theorem Stores.ite {p : Prop} [Decidable p] {ops ops' : List HostOp} {f g : Memory → Memory} (h : Stores ops f)
    (h' : Stores ops' g) : Stores (if p then ops else ops') fun m => if p then f m else g m := by
  split
  · exact h
  · exact h'

/-- The end of a removed node's link word (42_queue.md R210). -/
theorem Stores.cut (k : Cfg) (kind : Kind) (a : Word) :
    Stores [.memWrite (staticLinkAddr k kind a) linkEndWord] fun m => writeWord m (linkAt k kind a) 0 :=
  .memWrite _ _

/-- Stores made for the elements of a list, one after the other. -/
theorem Stores.flatMap {α : Type} {ops : α → List HostOp} {f : α → Memory → Memory} {l : List α}
    (h : ∀ x ∈ l, Stores (ops x) (f x)) : Stores (l.flatMap ops) fun m => l.foldl (fun m x => f x m) m := by
  induction l with
  | nil => exact .nil
  | cons x l ih =>
    obtain ⟨hx, hl⟩ := List.forall_mem_cons.mp h
    exact hx.append (ih hl)

/-- The link word that the model writes is the required one (42_queue.md R192). -/
theorem staticLinkWord_eq (k : Cfg) (v : Queue) (i : Nat) : staticLinkWord k v i = required k v i := by
  unfold staticLinkWord required queueAddrs
  rw [List.getElem?_map]
  cases v.nodes[i + 1]? <;> rfl

theorem Stores.staticLinkWrite (k : Cfg) (v : Queue) (i : Nat) :
    Stores (Machine.staticLinkWrite k v i) (relinked k v i) := by
  unfold Machine.staticLinkWrite relinked queueAddrs
  rw [List.getElem?_map, ← staticLinkWord_eq]
  cases v.nodes[i]? with
  | none => exact .nil
  | some n => exact .memWrite _ _

theorem staticLinkWrite_length (k : Cfg) (v : Queue) (i : Nat) : (staticLinkWrite k v i).length ≤ 1 := by
  unfold staticLinkWrite
  split <;> simp

/-! ## Queue records -/

theorem runOp_setQueue (q : Word) (v : Queue) (s : State) : runOp (.setQueue q v) s = .go [] (s.putQueue q v) := rfl

theorem findKey_putKey_same {α : Type} (l : List (Word × α)) (q : Word) (x : α) :
    findKey (putKey l q x) q = some x := by
  induction l with
  | nil => simp [putKey, findKey]
  | cons p l ih =>
    by_cases h : p.1 = q
    · simp [putKey, findKey, h]
    · simp [putKey, findKey, h, ih]

theorem putKey_putKey_same {α : Type} (l : List (Word × α)) (q : Word) (x y : α) :
    putKey (putKey l q x) q y = putKey l q y := by
  induction l with
  | nil => simp [putKey]
  | cons p l ih =>
    by_cases h : p.1 = q
    · simp [putKey, h]
    · simp [putKey, h, ih]

@[simp] theorem queue_putQueue_same (s : State) (q : Word) (v : Queue) : (s.putQueue q v).queue q = some v :=
  findKey_putKey_same s.queues q v

theorem putQueue_putQueue_same (s : State) (q : Word) (v w : Queue) :
    (s.putQueue q v).putQueue q w = s.putQueue q w := by
  simp only [State.putQueue, putKey_putKey_same]

@[simp] theorem queue_answer (s : State) (r : Reply) (q : Word) : (s.answer r).queue q = s.queue q := by
  simp only [State.queue, State.answer_queues]

/-- The record changes, then the reply. -/
theorem runs_setQueue_ret (q : Word) (v : Queue) (r : Reply) (s : State) :
    Runs 2 [.setQueue q v, .ret r] s ((s.putQueue q v).answer r) :=
  (Runs.single (runOp_setQueue q v s)).append (.single (runOp_ret r _))

section Commands

variable {s : State} {q pos a : Word} {v : Queue}

/-- Stores, then the new record and `Ok`. -/
theorem Stores.runHost_setQueue {ops : List HostOp} {f : Memory → Memory} (h : Stores ops f) (hr : Ready s)
    (hlen : ops.length ≤ 60) : runHost (ops ++ [.setQueue q v, .ret (plainReply .ok)]) s =
      edited s q v (f s.mem) s.nodeKinds := by
  obtain ⟨hp, hq⟩ := hr
  exact ((h.runs s).append (runs_setQueue_ret q v _ _)).runHost hp (by omega) (by simp) (by simp)

/-- Stores, then the kind tag of a node, the new record and `Ok`. -/
theorem Stores.runHost_tag_setQueue {ops : List HostOp} {f : Memory → Memory} (h : Stores ops f) (hr : Ready s)
    (hlen : ops.length ≤ 60) (kind : Kind) :
    runHost (ops ++ [.tag a kind, .setQueue q v, .ret (plainReply .ok)]) s =
      edited s q v (f s.mem) (putKey s.nodeKinds a kind) := by
  obtain ⟨hp, hq⟩ := hr
  have htag := Runs.single (runOp_tag a kind { s with mem := f s.mem })
  exact ((h.runs s).append (htag.append (runs_setQueue_ret q v _ _))).runHost hp (by omega) (by simp) (by simp)

/-! ## The commands as equations (42_queue.md R197, R201, R203, R208 to R213) -/

theorem withQueue_some (h : s.queue q = some v) (k : Queue → Out) : withQueue q s k = k v := by simp [withQueue, h]

theorem withQueue_none (h : s.queue q = none) (k : Queue → Out) : withQueue q s k = violation s := by
  simp [withQueue, h]

theorem exec_queueInsert (h : s.queue q = some v) : exec (.queueInsert q pos a) s =
    command
      (decide (pos.toNat ≤ nodeCount v) && editable s v (queueAddrs (insertNode s.cfg v pos.toNat a))) []
      (insertWrites s.cfg (insertNode s.cfg v pos.toNat a) pos.toNat
        ++ [.tag a v.kind, .setQueue q (insertNode s.cfg v pos.toNat a), .ret (plainReply .ok)]) s :=
  withQueue_some h _

theorem exec_queueRemove (h : s.queue q = some v) : exec (.queueRemove q pos) s =
    command (decide (pos.toNat < nodeCount v) && editable s v (queueAddrs (removeNode v pos.toNat))) []
      (removeWrites s.cfg v (removeNode v pos.toNat) pos.toNat
        ++ [.setQueue q (removeNode v pos.toNat), .ret (plainReply .ok)]) s :=
  withQueue_some h _

theorem exec_queueReplace (h : s.queue q = some v) : exec (.queueReplace q pos a) s =
    command (decide (pos.toNat < nodeCount v) && editable s v (queueAddrs (replaceNode s.cfg v pos.toNat a))) []
      (replaceWrites s.cfg v (replaceNode s.cfg v pos.toNat a) pos.toNat
        ++ [.tag a v.kind, .setQueue q (replaceNode s.cfg v pos.toNat a), .ret (plainReply .ok)]) s :=
  withQueue_some h _

theorem exec_queueSetCircular (h : s.queue q = some v) : exec (.queueSetCircular q pos) s =
    command (decide (pos.toNat < nodeCount v) && editable s v (queueAddrs v)) []
      (retarget s.cfg q v (some (nodeAt v pos.toNat))) s :=
  withQueue_some h _

theorem exec_queueClearCircular (h : s.queue q = some v) : exec (.queueClearCircular q) s =
    command (editable s v (queueAddrs v)) [] (retarget s.cfg q v none) s :=
  withQueue_some h _

theorem exec_convertToDynamic (h : s.queue q = some v) : exec (.convertToDynamic q) s =
    command (convertible s v .static) []
      [.readWords ((queueAddrs v).flatMap fun a => wordAddrs a (nodeWords s.cfg v.kind)) [] (.toDynamic q)] s :=
  withQueue_some h _

theorem exec_convertToStatic (h : s.queue q = some v) : exec (.convertToStatic q) s =
    command (convertible s v .dynamic) []
      [.readWords (wordAddrs ((queueAddrs v).headD 0) (nodeWords s.cfg v.kind)) [] (.toStaticHead q)] s :=
  withQueue_some h _

theorem exec_updateDynamicQueueLinks (h : s.queue q = some v) : exec (.updateDynamicQueueLinks q) s =
    command (convertible s v .dynamic) [] [.updateLinks q, .ret (plainReply .ok)] s :=
  withQueue_some h _

/-! ## What the structural operations answer (42_queue.md R208 to R213) -/

theorem editable_of_legal {as : List Word} (hv : Editable s q v) (has : nodesLegal s v.kind as = true) :
    editable s v as = true := by
  obtain ⟨-, hstatic, hlegal⟩ := hv
  simp [editable, hstatic, hlegal, has]

theorem queueInit_result (hr : Ready s) (kind : Kind) :
    exec (.queueInit q kind) s = edited s q ⟨kind, .static, [], none⟩ s.mem s.nodeKinds :=
  Stores.nil.runHost_setQueue hr (Nat.zero_le _)

/-- The links that an insertion writes (R209). -/
theorem Stores.insertWrites (k : Cfg) (v : Queue) (n : Nat) :
    Stores (Machine.insertWrites k v n) fun m => relinked k v n (if n = 0 then m else relinked k v (n - 1) m) :=
  (Stores.ite .nil (.staticLinkWrite k v (n - 1))).append (.staticLinkWrite k v n)

theorem insertWrites_length (k : Cfg) (v : Queue) (n : Nat) : (insertWrites k v n).length ≤ 2 := by
  have hprev := staticLinkWrite_length k v (n - 1)
  have hnew := staticLinkWrite_length k v n
  unfold insertWrites
  split <;> simp <;> omega

theorem queueInsert_result (hr : Ready s) (hv : Editable s q v) (hpos : pos.toNat ≤ v.nodes.length)
    (hlegal : nodesLegal s v.kind (queueAddrs (insertNode s.cfg v pos.toNat a)) = true) :
    exec (.queueInsert q pos a) s = edited s q (insertNode s.cfg v pos.toNat a)
      (relinked s.cfg (insertNode s.cfg v pos.toNat a) pos.toNat
        (if pos.toNat = 0 then s.mem else relinked s.cfg (insertNode s.cfg v pos.toNat a) (pos.toNat - 1) s.mem))
      (putKey s.nodeKinds a v.kind) := by
  have hlen := insertWrites_length s.cfg (insertNode s.cfg v pos.toNat a) pos.toNat
  rw [exec_queueInsert hv.1, command_run (by simp [nodeCount, hpos, editable_of_legal hv hlegal]), guarded_nil]
  exact (Stores.insertWrites ..).runHost_tag_setQueue hr (by omega) v.kind

theorem nodeAt_eq {n : Nat} {x : QNode} (h : v.nodes[n]? = some x) : nodeAt v n = x.addr := by
  simp [nodeAt, queueAddrs, h]

theorem lt_length_of_getElem? {n : Nat} {x : QNode} (h : v.nodes[n]? = some x) : n < v.nodes.length :=
  (List.getElem?_eq_some_iff.mp h).1

/-- The queue without a node, the node written out. -/
theorem removeNode_eq {n : Nat} {x : QNode} (h : v.nodes[n]? = some x) : removeNode v n =
    { v with nodes := v.nodes.eraseIdx n, fc := if v.fc = some x.addr then none else v.fc } := by
  rw [removeNode, nodeAt_eq h]

/-- The queue with a node replaced, the old node written out. -/
theorem replaceNode_eq (k : Cfg) {n : Nat} {x : QNode} (h : v.nodes[n]? = some x) : replaceNode k v n a =
    { v with nodes := v.nodes.set n ⟨a, updAll k v.kind⟩, fc := if v.fc = some x.addr then some a else v.fc } := by
  rw [replaceNode, nodeAt_eq h]

/-- A removal changes the loop target exactly when it takes it out (R210). -/
theorem removeNode_fc_iff {n : Nat} {x : QNode} (h : v.nodes[n]? = some x) :
    v.fc = (removeNode v n).fc ↔ v.fc ≠ some x.addr := by
  rw [removeNode_eq h]
  by_cases hfc : v.fc = some x.addr <;> simp [hfc]

/-- The links that a removal writes (R210): `cut` is the memory with the removed node's link word ended. -/
theorem Stores.removeWrites (k : Cfg) {n : Nat} {x : QNode} (h : v.nodes[n]? = some x) :
    Stores (Machine.removeWrites k v (removeNode v n) n) fun m =>
      let cut := writeWord m (linkAt k v.kind x.addr) 0
      let joined := if n = 0 then cut else relinked k (removeNode v n) (n - 1) cut
      if v.fc = some x.addr then relinked k (removeNode v n) (v.nodes.length - 2) joined else joined := by
  have hlen : nodeCount (removeNode v n) - 1 = v.nodes.length - 2 := by
    have := lt_length_of_getElem? h
    simp [nodeCount, removeNode, List.length_eraseIdx, this]
    omega
  rw [Machine.removeWrites, hlen, nodeAt_eq h]
  simpa only [removeNode_fc_iff h, ite_not] using ((Stores.cut k v.kind x.addr).append
    (.ite (p := n = 0) .nil (.staticLinkWrite k (removeNode v n) (n - 1)))).append
    (.ite (p := v.fc = (removeNode v n).fc) .nil (.staticLinkWrite k (removeNode v n) (v.nodes.length - 2)))

theorem removeWrites_length (k : Cfg) (v v' : Queue) (n : Nat) : (removeWrites k v v' n).length ≤ 3 := by
  have hprev := staticLinkWrite_length k v' (n - 1)
  have htail := staticLinkWrite_length k v' (nodeCount v' - 1)
  unfold removeWrites
  split_ifs <;> simp <;> omega

theorem queueRemove_result (hr : Ready s) (hv : Editable s q v) {x : QNode} (h : v.nodes[pos.toNat]? = some x)
    (hlegal : nodesLegal s v.kind (queueAddrs (removeNode v pos.toNat)) = true) :
    exec (.queueRemove q pos) s = edited s q (removeNode v pos.toNat)
      (let cut := writeWord s.mem (linkAt s.cfg v.kind x.addr) 0
       let joined := if pos.toNat = 0 then cut else relinked s.cfg (removeNode v pos.toNat) (pos.toNat - 1) cut
       if v.fc = some x.addr then relinked s.cfg (removeNode v pos.toNat) (v.nodes.length - 2) joined else joined)
      s.nodeKinds := by
  have hpos := lt_length_of_getElem? h
  have hlen := removeWrites_length s.cfg v (removeNode v pos.toNat) pos.toNat
  rw [exec_queueRemove hv.1, command_run (by simp [nodeCount, hpos, editable_of_legal hv hlegal]), guarded_nil]
  exact (Stores.removeWrites s.cfg h).runHost_setQueue hr (by omega)

/-- The links that a replacement writes (R211). -/
theorem Stores.replaceWrites (k : Cfg) {n : Nat} {x : QNode} (h : v.nodes[n]? = some x) :
    Stores (Machine.replaceWrites k v (replaceNode k v n a) n) fun m =>
      let cut := writeWord m (linkAt k v.kind x.addr) 0
      let joined := relinked k (replaceNode k v n a) n
        (if n = 0 then cut else relinked k (replaceNode k v n a) (n - 1) cut)
      if v.fc = (replaceNode k v n a).fc then joined
      else relinked k (replaceNode k v n a) (v.nodes.length - 1) joined := by
  have hlen : nodeCount (replaceNode k v n a) - 1 = v.nodes.length - 1 := by simp [nodeCount, replaceNode]
  rw [Machine.replaceWrites, hlen, nodeAt_eq h]
  exact ((Stores.cut k v.kind x.addr).append (.insertWrites k _ n)).append (.ite .nil (.staticLinkWrite k _ _))

theorem replaceWrites_length (k : Cfg) (v v' : Queue) (n : Nat) : (replaceWrites k v v' n).length ≤ 4 := by
  have hinsert := insertWrites_length k v' n
  have htail := staticLinkWrite_length k v' (nodeCount v' - 1)
  unfold replaceWrites
  split <;> simp <;> omega

theorem queueReplace_result (hr : Ready s) (hv : Editable s q v) {x : QNode} (h : v.nodes[pos.toNat]? = some x)
    (hlegal : nodesLegal s v.kind (queueAddrs (replaceNode s.cfg v pos.toNat a)) = true) :
    exec (.queueReplace q pos a) s = edited s q (replaceNode s.cfg v pos.toNat a)
      (let cut := writeWord s.mem (linkAt s.cfg v.kind x.addr) 0
       let joined := relinked s.cfg (replaceNode s.cfg v pos.toNat a) pos.toNat
         (if pos.toNat = 0 then cut else relinked s.cfg (replaceNode s.cfg v pos.toNat a) (pos.toNat - 1) cut)
       if v.fc = (replaceNode s.cfg v pos.toNat a).fc then joined
       else relinked s.cfg (replaceNode s.cfg v pos.toNat a) (v.nodes.length - 1) joined)
      (putKey s.nodeKinds a v.kind) := by
  have hpos := lt_length_of_getElem? h
  have hlen := replaceWrites_length s.cfg v (replaceNode s.cfg v pos.toNat a) pos.toNat
  rw [exec_queueReplace hv.1, command_run (by simp [nodeCount, hpos, editable_of_legal hv hlegal]), guarded_nil]
  exact (Stores.replaceWrites s.cfg h).runHost_tag_setQueue hr (by omega) v.kind

/-- Another loop target: the tail's link word is written (R212, R213). -/
theorem retarget_result (hr : Ready s) (fc : Option Word) : runHost (retarget s.cfg q v fc) s =
    edited s q { v with fc := fc } (relinked s.cfg { v with fc := fc } (v.nodes.length - 1) s.mem) s.nodeKinds := by
  have hlen := staticLinkWrite_length s.cfg { v with fc := fc } (v.nodes.length - 1)
  exact (Stores.staticLinkWrite s.cfg { v with fc := fc } _).runHost_setQueue hr (hlen.trans (by decide))

theorem queueSetCircular_result (hr : Ready s) (hv : Editable s q v) {x : QNode} (h : v.nodes[pos.toNat]? = some x) :
    exec (.queueSetCircular q pos) s = edited s q { v with fc := some x.addr }
      (relinked s.cfg { v with fc := some x.addr } (v.nodes.length - 1) s.mem) s.nodeKinds := by
  have hpos := lt_length_of_getElem? h
  rw [exec_queueSetCircular hv.1, command_run (by simp [nodeCount, hpos, editable_of_legal hv hv.2.2]), guarded_nil,
    nodeAt_eq h, retarget_result hr]

theorem queueClearCircular_result (hr : Ready s) (hv : Editable s q v) :
    exec (.queueClearCircular q) s = edited s q { v with fc := none }
      (relinked s.cfg { v with fc := none } (v.nodes.length - 1) s.mem) s.nodeKinds := by
  rw [exec_queueClearCircular hv.1, command_run (editable_of_legal hv hv.2.2), guarded_nil, retarget_result hr]

end Commands

/-- Settles O54: one clause per operation, each the run of its link writes, its record and its tag. -/
theorem queueEditResult : Obligations.QueueEditResult := by
  unfold Obligations.QueueEditResult
  intro s q hr
  refine ⟨queueInit_result hr, ?insert, ?remove, ?replace, ?setCircular, fun v hv => queueClearCircular_result hr hv⟩
  case insert =>
    intro v pos a hv n v' hpos hlegal
    exact queueInsert_result hr hv hpos hlegal
  case remove =>
    intro v pos x hv hx n v' cut joined hlegal
    have hv' : removeNode v n = v' := removeNode_eq hx
    rw [← hv'] at hlegal
    have h := queueRemove_result hr hv hx hlegal
    rw [hv'] at h
    exact h
  case replace =>
    intro v pos a x hv hx n v' cut joined hlegal
    have hv' : replaceNode s.cfg v n a = v' := replaceNode_eq s.cfg hx
    rw [← hv'] at hlegal
    have h := queueReplace_result hr hv hx hlegal
    rw [hv'] at h
    exact h
  case setCircular =>
    intro v pos x hv hx
    exact queueSetCircular_result hr hv hx

/-! ## Precondition violations (42_queue.md R191, R194, R195, R208) -/

section Violations

variable {s : State} {q pos a : Word} {v : Queue} {as : List Word} {kind : Kind}

/-- An aligned address is a multiple of 4 (20_memory.md R71). -/
theorem toNat_mod_four_of_aligned4 {a : Word} (h : aligned4 a = true) : a.toNat % 4 = 0 := by
  have hlow : a.extractLsb' 0 2 = 0 := by simpa [aligned4] using h
  simpa [BitVec.extractLsb'] using congrArg BitVec.toNat hlow

/-- What legal node addresses are, in the terms of numbers (42_queue.md R191). -/
theorem nodeAddrLegal_iff {words : Nat} {h a : Word} : nodeAddrLegal words h a = true ↔
    aligned4 a = true ∧ a.extractLsb' 16 16 = h.extractLsb' 16 16 ∧ a.toNat % 65536 + 4 * words ≤ 65536 := by
  simp [nodeAddrLegal, and_assoc, BitVec.extractLsb']

theorem footprintsDisjoint_iff {words : Nat} {a b : Word} : footprintsDisjoint words a b = true ↔
    a.toNat + 4 * words ≤ b.toNat ∨ b.toNat + 4 * words ≤ a.toNat := by
  simp [footprintsDisjoint]

theorem allDisjoint_iff {words : Nat} {as : List Word} : allDisjoint words as = true ↔
    as.Pairwise fun a b => footprintsDisjoint words a b = true := by
  induction as with
  | nil => simp [allDisjoint]
  | cons a as ih => simp [allDisjoint, ih]

/-- The conditions on the node addresses of a queue command (42_queue.md R191). -/
theorem addressesLegal_iff {words : Nat} {as : List Word} : addressesLegal words as = true ↔
    (∀ a ∈ as, nodeAddrLegal words (as.headD 0) a = true) ∧
      as.Pairwise fun a b => footprintsDisjoint words a b = true := by
  cases as with
  | nil => simp [addressesLegal]
  | cons a as => simp [addressesLegal, allDisjoint_iff]

theorem nodesLegal_iff : nodesLegal s kind as = true ↔
    addressesLegal (nodeWords s.cfg kind) as = true ∧ ∀ a ∈ as, tagAllows s kind a = true := by
  simp [nodesLegal]

/-- Bad addresses or kinds are not legal. -/
theorem nodesLegal_of_badNodes (h : BadNodes s kind as) : nodesLegal s kind as = false := by
  rw [← Bool.not_eq_true, nodesLegal_iff, addressesLegal_iff]
  rintro ⟨⟨haddr, hdisjoint⟩, htags⟩
  rcases h with ⟨a, ha, hbad⟩ | ⟨a, ha, hbad⟩ | ⟨a, ha, hbad⟩ | ⟨i, j, a, b, hij, hi, hj, hab, hba⟩ |
    ⟨a, ha, x, hx, hbad⟩
  · exact hbad (toNat_mod_four_of_aligned4 (nodeAddrLegal_iff.mp (haddr a ha)).1)
  · exact hbad (nodeAddrLegal_iff.mp (haddr a ha)).2.1
  · exact absurd (nodeAddrLegal_iff.mp (haddr a ha)).2.2 (by omega)
  · obtain ⟨hilt, rfl⟩ := List.getElem?_eq_some_iff.mp hi
    obtain ⟨hjlt, rfl⟩ := List.getElem?_eq_some_iff.mp hj
    have hpair := footprintsDisjoint_iff.mp (List.pairwise_iff_getElem.mp hdisjoint i j hilt hjlt hij)
    omega
  · exact hbad (by simpa [tagAllows, hx] using htags a ha)

/-- Where no node list is acceptable every structural operation on a record is a violation. -/
theorem edits_violate (hq : s.queue q = some v) (h : ∀ as, editable s v as = false) :
    ∀ i ∈ [Instr.queueInsert q pos a, .queueRemove q pos, .queueReplace q pos a, .queueSetCircular q pos,
      .queueClearCircular q], exec i s = violation s := by
  simp only [List.forall_mem_cons, List.not_mem_nil, false_imp_iff, implies_true, and_true]
  refine ⟨(exec_queueInsert hq).trans ?_, (exec_queueRemove hq).trans ?_, (exec_queueReplace hq).trans ?_,
    (exec_queueSetCircular hq).trans ?_, (exec_queueClearCircular hq).trans ?_⟩ <;>
    exact command_violation (by simp [h])

theorem converts_violate (hq : s.queue q = some v) (h : ∀ f, convertible s v f = false) :
    ∀ i ∈ [Instr.convertToDynamic q, .convertToStatic q, .updateDynamicQueueLinks q], exec i s = violation s := by
  simp only [List.forall_mem_cons, List.not_mem_nil, false_imp_iff, implies_true, and_true]
  exact ⟨(exec_convertToDynamic hq).trans (command_violation (h _)),
    (exec_convertToStatic hq).trans (command_violation (h _)),
    (exec_updateDynamicQueueLinks hq).trans (command_violation (h _))⟩

/-- A queue command on a name without a record (log 24). -/
theorem noQueue_violates (hq : s.queue q = none) :
    ∀ i ∈ [Instr.convertToDynamic q, .convertToStatic q, .updateDynamicQueueLinks q] ++
      [Instr.queueInsert q pos a, .queueRemove q pos, .queueReplace q pos a, .queueSetCircular q pos,
        .queueClearCircular q], exec i s = violation s := by
  simp only [List.cons_append, List.nil_append, List.forall_mem_cons, List.not_mem_nil, false_imp_iff, implies_true,
    and_true]
  refine ⟨?_, ?_, ?_, ?_, ?_, ?_, ?_, ?_⟩ <;> exact withQueue_none hq _

theorem not_convertible (f : Format) (h : v.format ≠ f ∨ v.nodes = []) : convertible s v f = false := by
  rcases h with h | h <;> simp [convertible, nodeCount, h]

/-- A position that is no node of the queue (42_queue.md section 4). -/
theorem position_violates (hq : s.queue q = some v) (h : v.nodes.length ≤ pos.toNat) :
    ∀ i ∈ [Instr.queueRemove q pos, .queueReplace q pos a, .queueSetCircular q pos], exec i s = violation s := by
  have hpos : ¬ pos.toNat < nodeCount v := not_lt.mpr h
  simp only [List.forall_mem_cons, List.not_mem_nil, false_imp_iff, implies_true, and_true]
  refine ⟨(exec_queueRemove hq).trans ?_, (exec_queueReplace hq).trans ?_, (exec_queueSetCircular hq).trans ?_⟩ <;>
    exact command_violation (by simp [hpos])

theorem queueAddrs_insertNode (k : Cfg) (v : Queue) (n : Nat) (a : Word) :
    queueAddrs (insertNode k v n a) = (queueAddrs v).take n ++ [a] ++ (queueAddrs v).drop n := by
  simp [queueAddrs, insertNode]

theorem queueAddrs_removeNode (v : Queue) (n : Nat) : queueAddrs (removeNode v n) = (queueAddrs v).eraseIdx n := by
  simp [queueAddrs, removeNode, List.eraseIdx_map]

theorem queueAddrs_replaceNode (k : Cfg) (v : Queue) (n : Nat) (a : Word) :
    queueAddrs (replaceNode k v n a) = (queueAddrs v).set n a := by
  simp [queueAddrs, replaceNode, List.map_set]

/-- A structural operation towards bad nodes is not done. -/
theorem not_editable_of_badNodes (h : BadNodes s v.kind as) : editable s v as = false := by
  simp [editable, nodesLegal_of_badNodes h]

end Violations

/-- Settles O56: every clause makes the operands' test of its commands false. -/
theorem queueViolations : Obligations.QueueViolations := by
  unfold Obligations.QueueViolations
  intro s q pos a edits converts
  refine ⟨noQueue_violates, fun v hq => ⟨?toDynamic, ?toStatic, ?dynamic, position_violates hq, ?insertAt, ?bad,
    ?badInsert, ?badRemove, ?badReplace⟩⟩
  case toDynamic =>
    intro h
    have h' : v.format ≠ .static ∨ v.nodes = [] := h.imp_left fun hdyn => by simp [hdyn]
    exact (exec_convertToDynamic hq).trans (command_violation (not_convertible _ h'))
  case toStatic =>
    intro h
    have h' : v.format ≠ .dynamic ∨ v.nodes = [] := h.imp_left fun hstat => by simp [hstat]
    exact ⟨(exec_convertToStatic hq).trans (command_violation (not_convertible _ h')),
      (exec_updateDynamicQueueLinks hq).trans (command_violation (not_convertible _ h'))⟩
  case dynamic => exact fun hdyn => edits_violate hq fun as => by simp [editable, hdyn]
  case insertAt =>
    intro hpos
    exact (exec_queueInsert hq).trans (command_violation (by simp [nodeCount, Nat.not_le.mpr hpos]))
  case bad =>
    intro hbad i hi
    have hlegal := nodesLegal_of_badNodes hbad
    rcases List.mem_append.mp hi with hi | hi
    · exact converts_violate hq (fun f => by simp [convertible, hlegal]) i hi
    · exact edits_violate hq (fun as => by simp [editable, hlegal]) i hi
  case badInsert =>
    intro hbad
    rw [← queueAddrs_insertNode s.cfg] at hbad
    exact (exec_queueInsert hq).trans (command_violation (by simp [not_editable_of_badNodes hbad]))
  case badRemove =>
    intro hbad
    rw [← queueAddrs_removeNode] at hbad
    exact (exec_queueRemove hq).trans (command_violation (by simp [not_editable_of_badNodes hbad]))
  case badReplace =>
    intro hbad
    rw [← queueAddrs_replaceNode s.cfg] at hbad
    exact (exec_queueReplace hq).trans (command_violation (by simp [not_editable_of_badNodes hbad]))

end Sys2Proof.QueueEdits
end

section
/-! The static link invariant (42_queue.md R192): words of nodes that share no byte, the link words that a relinking
makes right, and every structural operation keeps the invariant (O55). -/

namespace Sys2Proof.QueueLinks

open Sys2Proof.Machine Sys2Proof.Claims Sys2Proof.Environment Sys2Proof.Encoding Sys2Proof.QueueEdits

/-! ## Words that share no byte (20_memory.md R70, R71) -/

/-- The words at two addresses share no byte. -/
def Apart (a b : Word) : Prop := 4 ≤ (a - b).toNat ∧ 4 ≤ (b - a).toNat

theorem readWord_writeWord_of_apart (m : Memory) {a b : Word} (w : Word) (h : Apart a b) :
    readWord (writeWord m b w) a = readWord m a := by
  obtain ⟨hab, hba⟩ := h
  have hbyte (x : Word) (hx : (x - a).toNat < 4) : memRead (writeWord m b w) x.toNat = memRead m x.toNat := by
    apply memRead_writeWord_of_le
    bv_omega
  unfold readWord
  rw [hbyte a (by bv_omega), hbyte (a + 1) (by bv_omega), hbyte (a + 2) (by bv_omega), hbyte (a + 3) (by bv_omega)]

/-- Addresses a word or more apart, neither at the top of the address space. -/
theorem apart_of_toNat {a b : Word} (ha : a.toNat + 4 ≤ 2 ^ 32) (hb : b.toNat + 4 ≤ 2 ^ 32)
    (h : a.toNat + 4 ≤ b.toNat ∨ b.toNat + 4 ≤ a.toNat) : Apart a b := by
  unfold Apart
  constructor <;> bv_omega

section Footprints

variable {words x y i j : Nat} {as : List Word} {a b h : Word}

/-- The words of a node do not run over the top of its window (42_queue.md R191). -/
theorem toNat_wordAddr (ha : nodeAddrLegal words h a = true) (hx : x < words) :
    (wordAddr a x).toNat = a.toNat + 4 * x ∧ a.toNat + 4 * x + 4 ≤ 2 ^ 32 := by
  obtain ⟨-, -, htop⟩ := nodeAddrLegal_iff.mp ha
  rw [wordAddr, BitVec.toNat_add, BitVec.toNat_ofNat]
  omega

/-- Different words of the nodes of a queue share no byte (42_queue.md R191). -/
theorem apart_of_legal (hlegal : addressesLegal words as = true) (ha : as[i]? = some a) (hb : as[j]? = some b)
    (hx : x < words) (hy : y < words) (hne : i ≠ j ∨ x ≠ y) : Apart (wordAddr a x) (wordAddr b y) := by
  obtain ⟨haddr, hpairs⟩ := addressesLegal_iff.mp hlegal
  obtain ⟨hi, rfl⟩ := List.getElem?_eq_some_iff.mp ha
  obtain ⟨hj, rfl⟩ := List.getElem?_eq_some_iff.mp hb
  obtain ⟨hax, htopx⟩ := toNat_wordAddr (haddr as[i] (List.getElem_mem hi)) hx
  obtain ⟨hby, htopy⟩ := toNat_wordAddr (haddr as[j] (List.getElem_mem hj)) hy
  have hdisjoint := List.pairwise_iff_getElem.mp hpairs
  refine apart_of_toNat (by omega) (by omega) ?_
  rcases Nat.lt_trichotomy i j with hij | rfl | hji
  · have := footprintsDisjoint_iff.mp (hdisjoint i j hi hj hij)
    omega
  · omega
  · have := footprintsDisjoint_iff.mp (hdisjoint j i hj hi hji)
    omega

end Footprints

/-- A node stores at least its link word (30_encoding.md R101, R102). -/
theorem nodeWords_pos {k : Cfg} (hk : k.wf = true) (kind : Kind) : 0 < nodeWords k kind :=
  List.length_pos_of_mem (a := 7) (by simp [kindRegs, maskRegs, updAll_cllr hk kind])

/-! ## The link words of a static queue (42_queue.md R192) -/

section Links

variable {k : Cfg} {v v' : Queue} {P Q : Nat → Prop} {m : Memory} {n : Nat} {x : Word}

/-- The link words of the nodes that `P` names are those that their places require. -/
def LinksHold (k : Cfg) (v : Queue) (P : Nat → Prop) (m : Memory) : Prop :=
  ∀ (i : Nat) (a : Word), P i → (queueAddrs v)[i]? = some a → readWord m (linkAt k v.kind a) = required k v i

theorem linksOk_iff {s : State} : LinksOk s v ↔ LinksHold s.cfg v (fun _ => True) s.mem :=
  ⟨fun h i a _ ha => h i a ha, fun h i a ha => h i a trivial ha⟩

theorem LinksHold.mono (h : LinksHold k v P m) (hP : ∀ i < (queueAddrs v).length, Q i → P i) : LinksHold k v Q m :=
  fun i a hi ha => h i a (hP i (List.getElem?_eq_some_iff.mp ha).1 hi) ha

theorem relinked_wf (hm : Memory.wf m = true) : Memory.wf (relinked k v n m) = true := by
  unfold relinked
  split
  · exact writeWord_wf m _ _ hm
  · exact hm

/-- Relinking a node makes its link word right and leaves those of the other nodes. -/
theorem LinksHold.relinked (h : LinksHold k v P m) (hk : k.wf = true) (hm : Memory.wf m = true)
    (hlegal : addressesLegal (nodeWords k v.kind) (queueAddrs v) = true) (n : Nat) :
    LinksHold k v (fun i => i = n ∨ P i) (relinked k v n m) := by
  have hlast : nodeWords k v.kind - 1 < nodeWords k v.kind := Nat.sub_lt (nodeWords_pos hk v.kind) one_pos
  intro i a hi ha
  unfold Claims.relinked
  by_cases hin : i = n
  · subst hin
    rw [ha]
    exact readWord_writeWord_same m _ _ hm
  · have hold := h i a (hi.resolve_left hin) ha
    cases hb : (queueAddrs v)[n]? with
    | none => exact hold
    | some b =>
      exact (readWord_writeWord_of_apart m _ (apart_of_legal hlegal ha hb hlast hlast (.inl hin))).trans hold

/-- Relinking the node before position `n`, if there is one. -/
theorem LinksHold.relinked_prev (h : LinksHold k v P m) (hk : k.wf = true) (hm : Memory.wf m = true)
    (hlegal : addressesLegal (nodeWords k v.kind) (queueAddrs v) = true) (n : Nat) :
    LinksHold k v (fun i => i + 1 = n ∨ P i) (if n = 0 then m else Claims.relinked k v (n - 1) m) := by
  split
  · exact h.mono fun i _ hi => hi.resolve_left (by omega)
  · exact (h.relinked hk hm hlegal (n - 1)).mono fun i _ hi => hi.imp_left (by omega)

theorem relinked_prev_wf (hm : Memory.wf m = true) :
    Memory.wf (if n = 0 then m else relinked k v (n - 1) m) = true := by
  split
  · exact hm
  · exact relinked_wf hm

/-- Ending the link word of one node leaves those of the other nodes. -/
theorem LinksHold.cut (h : LinksHold k v (fun _ => True) m) (hk : k.wf = true)
    (hlegal : addressesLegal (nodeWords k v.kind) (queueAddrs v) = true) (hx : (queueAddrs v)[n]? = some x) :
    LinksHold k v (· ≠ n) (writeWord m (linkAt k v.kind x) 0) := by
  have hlast : nodeWords k v.kind - 1 < nodeWords k v.kind := Nat.sub_lt (nodeWords_pos hk v.kind) one_pos
  intro i a hi ha
  exact (readWord_writeWord_of_apart m 0 (apart_of_legal hlegal ha hx hlast hlast (.inl hi))).trans (h i a trivial ha)

/-- A link word depends on the next node, and on the loop target where there is none. -/
theorem required_congr {i j : Nat} (hkind : v'.kind = v.kind) (hnext : (queueAddrs v')[i + 1]? = (queueAddrs v)[j + 1]?)
    (hfc : v'.fc = v.fc ∨ i + 1 < (queueAddrs v').length) : required k v' i = required k v j := by
  unfold required
  rw [hkind, ← hnext]
  rcases hfc with hfc | hlt
  · rw [hfc]
  · rw [List.getElem?_eq_getElem hlt]

/-- Nodes that keep their next node keep their right link words: `from i` is the old place of node `i`. -/
theorem LinksHold.moved (h : LinksHold k v Q m) (hkind : v'.kind = v.kind) (old : Nat → Nat)
    (hQ : ∀ i, P i → Q (old i))
    (haddr : ∀ i, P i → (queueAddrs v')[i]? = (queueAddrs v)[old i]?)
    (hnext : ∀ i, P i → (queueAddrs v')[i + 1]? = (queueAddrs v)[old i + 1]?)
    (hfc : ∀ i < (queueAddrs v').length, P i → v'.fc = v.fc ∨ i + 1 < (queueAddrs v').length) :
    LinksHold k v' P m := by
  intro i a hi ha
  have hlt := (List.getElem?_eq_some_iff.mp ha).1
  rw [required_congr hkind (hnext i hi) (hfc i hlt hi), hkind]
  exact h (old i) a (hQ i hi) ((haddr i hi).symm.trans ha)

/-! ## The structural operations (42_queue.md R209 to R213) -/

theorem getElem?_insertNode (k : Cfg) {a : Word} (hn : n ≤ v.nodes.length) (i : Nat) :
    (queueAddrs (insertNode k v n a))[i]? =
      if i < n then (queueAddrs v)[i]? else if i = n then some a else (queueAddrs v)[i - 1]? := by
  have hlen : ((queueAddrs v).take n).length = n := by simpa [queueAddrs] using hn
  rw [queueAddrs_insertNode, List.append_assoc, List.getElem?_append, hlen]
  split_ifs with hlt heq
  · exact List.getElem?_take_of_lt hlt
  · simp [heq]
  · rw [List.singleton_append, List.getElem?_cons, if_neg (by omega), List.getElem?_drop]
    congr 1
    omega

theorem insertNode_links (h : LinksHold k v (fun _ => True) m) (hk : k.wf = true) (hm : Memory.wf m = true) {a : Word}
    (hn : n ≤ v.nodes.length)
    (hlegal : addressesLegal (nodeWords k v.kind) (queueAddrs (insertNode k v n a)) = true) :
    LinksHold k (insertNode k v n a) (fun _ => True) (relinked k (insertNode k v n a) n
      (if n = 0 then m else relinked k (insertNode k v n a) (n - 1) m)) := by
  have hrest : LinksHold k (insertNode k v n a) (fun i => i ≠ n ∧ i + 1 ≠ n) m := by
    refine h.moved rfl (fun i => if i < n then i else i - 1) (fun _ _ => trivial) (fun i hi => ?_) (fun i hi => ?_)
      fun _ _ _ => .inl rfl
    · obtain ⟨hin, -⟩ := hi
      rw [getElem?_insertNode k hn]
      split_ifs <;> rfl
    · obtain ⟨hin, hprev⟩ := hi
      rw [getElem?_insertNode k hn]
      by_cases hlt : i < n
      · rw [if_pos (by omega), if_pos hlt]
      · rw [if_neg (by omega), if_neg (by omega), if_neg hlt]
        congr 1
        omega
  exact ((hrest.relinked_prev hk hm hlegal n).relinked hk (relinked_prev_wf hm) hlegal n).mono fun i _ _ => by tauto

theorem removeNode_links (h : LinksHold k v (fun _ => True) m) (hk : k.wf = true) (hm : Memory.wf m = true) {y : QNode}
    (hy : v.nodes[n]? = some y) (hv : addressesLegal (nodeWords k v.kind) (queueAddrs v) = true)
    (hlegal : addressesLegal (nodeWords k v.kind) (queueAddrs (removeNode v n)) = true) :
    LinksHold k (removeNode v n) (fun _ => True)
      (let cut := writeWord m (linkAt k v.kind y.addr) 0
       let joined := if n = 0 then cut else relinked k (removeNode v n) (n - 1) cut
       if v.fc = some y.addr then relinked k (removeNode v n) (v.nodes.length - 2) joined else joined) := by
  have hlen : (queueAddrs (removeNode v n)).length = v.nodes.length - 1 := by
    simp [queueAddrs, removeNode, List.length_eraseIdx, lt_length_of_getElem? hy]
  have haddr (i : Nat) : (queueAddrs (removeNode v n))[i]? =
      if i < n then (queueAddrs v)[i]? else (queueAddrs v)[i + 1]? := by
    rw [queueAddrs_removeNode, List.getElem?_eraseIdx]
  have hcutwf := writeWord_wf m (linkAt k v.kind y.addr) 0 hm
  have hcut := h.cut hk hv (x := y.addr) (n := n) (by simp [queueAddrs, hy])
  have hrest : LinksHold k (removeNode v n)
      (fun i => i + 1 ≠ n ∧ (v.fc = some y.addr → i ≠ v.nodes.length - 2))
      (writeWord m (linkAt k v.kind y.addr) 0) := by
    refine hcut.moved rfl (fun i => if i < n then i else i + 1) (fun i _ => ?_) (fun i _ => ?_) (fun i hi => ?_)
      fun i hlt hi => ?_
    · split <;> omega
    · rw [haddr]; split <;> rfl
    · obtain ⟨hprev, -⟩ := hi
      rw [haddr]
      by_cases hin : i < n
      · rw [if_pos (by omega), if_pos hin]
      · rw [if_neg (by omega), if_neg hin]
    · obtain ⟨-, htail⟩ := hi
      by_cases hfc : v.fc = some y.addr
      · exact .inr (by have := htail hfc; omega)
      · exact .inl ((removeNode_fc_iff hy).mpr hfc).symm
  have hjoined := hrest.relinked_prev hk hcutwf hlegal n
  dsimp only
  by_cases hfc : v.fc = some y.addr
  · rw [if_pos hfc]
    exact (hjoined.relinked hk (relinked_prev_wf hcutwf) hlegal _).mono fun i _ _ => by tauto
  · rw [if_neg hfc]
    exact hjoined.mono fun i _ _ => by tauto

theorem replaceNode_links (h : LinksHold k v (fun _ => True) m) (hk : k.wf = true) (hm : Memory.wf m = true) {a : Word}
    {y : QNode} (hy : v.nodes[n]? = some y) (hv : addressesLegal (nodeWords k v.kind) (queueAddrs v) = true)
    (hlegal : addressesLegal (nodeWords k v.kind) (queueAddrs (replaceNode k v n a)) = true) :
    LinksHold k (replaceNode k v n a) (fun _ => True)
      (let cut := writeWord m (linkAt k v.kind y.addr) 0
       let joined := relinked k (replaceNode k v n a) n
         (if n = 0 then cut else relinked k (replaceNode k v n a) (n - 1) cut)
       if v.fc = (replaceNode k v n a).fc then joined
       else relinked k (replaceNode k v n a) (v.nodes.length - 1) joined) := by
  have hlen : (queueAddrs (replaceNode k v n a)).length = v.nodes.length := by simp [queueAddrs, replaceNode]
  have haddr (i : Nat) (hi : i ≠ n) : (queueAddrs (replaceNode k v n a))[i]? = (queueAddrs v)[i]? := by
    rw [queueAddrs_replaceNode, List.getElem?_set_ne hi.symm]
  have hcutwf := writeWord_wf m (linkAt k v.kind y.addr) 0 hm
  have hcut := h.cut hk hv (x := y.addr) (n := n) (by simp [queueAddrs, hy])
  have hrest : LinksHold k (replaceNode k v n a)
      (fun i => i ≠ n ∧ i + 1 ≠ n ∧ (v.fc ≠ (replaceNode k v n a).fc → i ≠ v.nodes.length - 1))
      (writeWord m (linkAt k v.kind y.addr) 0) := by
    refine hcut.moved rfl id (fun i hi => hi.1) (fun i hi => haddr i hi.1) (fun i hi => haddr (i + 1) hi.2.1)
      fun i hlt hi => ?_
    obtain ⟨-, -, htail⟩ := hi
    by_cases hfc : v.fc = (replaceNode k v n a).fc
    · exact .inl hfc.symm
    · exact .inr (by have := htail hfc; omega)
  have hjoined := (hrest.relinked_prev hk hcutwf hlegal n).relinked hk (relinked_prev_wf hcutwf) hlegal n
  dsimp only
  by_cases hfc : v.fc = (replaceNode k v n a).fc
  · rw [if_pos hfc]
    exact hjoined.mono fun i _ _ => by tauto
  · rw [if_neg hfc]
    exact (hjoined.relinked hk (relinked_wf (relinked_prev_wf hcutwf)) hlegal _).mono fun i _ _ => by tauto

theorem retarget_links (h : LinksHold k v (fun _ => True) m) (hk : k.wf = true) (hm : Memory.wf m = true)
    (hv : addressesLegal (nodeWords k v.kind) (queueAddrs v) = true) (fc : Option Word) :
    LinksHold k { v with fc := fc } (fun _ => True) (relinked k { v with fc := fc } (v.nodes.length - 1) m) := by
  have hlen : (queueAddrs { v with fc := fc }).length = v.nodes.length := by simp [queueAddrs]
  have hrest : LinksHold k { v with fc := fc } (· ≠ v.nodes.length - 1) m :=
    h.moved rfl id (fun _ _ => trivial) (fun _ _ => rfl) (fun _ _ => rfl) fun i hlt hi => .inr (by omega)
  exact (hrest.relinked hk hm hv _).mono fun i _ _ => by tauto

end Links

/-! ## A command that keeps the invariant, done or violated -/

section Commands

variable {s : State} {q pos a : Word} {v : Queue}

/-- The operands of a structural operation are legal. -/
theorem editable_iff {as : List Word} (hq : s.queue q = some v) : editable s v as = true ↔
    Editable s q v ∧ nodesLegal s v.kind as = true := by
  simp [editable, Editable, hq, and_assoc]

theorem addressesLegal_of_nodesLegal {kind : Kind} {as : List Word} (h : nodesLegal s kind as = true) :
    addressesLegal (nodeWords s.cfg kind) as = true := (nodesLegal_iff.mp h).1

/-- The answer `o` keeps the link invariant of queue `q`. -/
def KeepsLinks (q : Word) (o : Out) : Prop := ∀ t v', o = .next t → t.queue q = some v' → LinksOk t v'

/-- A violation changes neither memory nor the record. -/
theorem keepsLinks_violation (hq : s.queue q = some v) (h : LinksOk s v) : KeepsLinks q (violation s) := by
  intro t v' hnext hv'
  obtain ⟨-, rfl⟩ := violation_next hnext
  rw [queue_answer, hq, Option.some.injEq] at hv'
  subst hv'
  rw [linksOk_iff] at h ⊢
  simpa using h

/-- A command that answers a record and memory with the right link words. -/
theorem keepsLinks_edited {m : Memory} {kinds : List (Word × Kind)} (h : LinksHold s.cfg v (fun _ => True) m) :
    KeepsLinks q (edited s q v m kinds) := by
  intro t v' hnext hv'
  cases hnext
  rw [queue_answer, queue_putQueue_same, Option.some.injEq] at hv'
  subst hv'
  rw [linksOk_iff]
  simpa using h

/-- A command with legal operands keeps the invariant, so it does with any. -/
theorem keepsLinks_command {g : Bool} {ops : List HostOp} {i : Instr} (hq : s.queue q = some v) (hlinks : LinksOk s v)
    (hexec : exec i s = command g [] ops s) (h : g = true → KeepsLinks q (exec i s)) : KeepsLinks q (exec i s) := by
  cases hg : g with
  | true => exact h hg
  | false =>
    rw [hexec, command_violation hg]
    exact keepsLinks_violation hq hlinks

theorem queueInit_keepsLinks (hr : Ready s) (kind : Kind) : KeepsLinks q (exec (.queueInit q kind) s) := by
  rw [queueInit_result hr]
  exact keepsLinks_edited fun i a _ ha => by simp [queueAddrs] at ha

variable (hr : Ready s) (hk : s.cfg.wf = true) (hm : Memory.wf s.mem = true) (hq : s.queue q = some v)
  (hlinks : LinksOk s v)
include hr hk hm hq hlinks

theorem queueInsert_keepsLinks : KeepsLinks q (exec (.queueInsert q pos a) s) := by
  refine keepsLinks_command hq hlinks (exec_queueInsert hq) fun hg => ?_
  rw [Bool.and_eq_true, decide_eq_true_eq, editable_iff hq] at hg
  obtain ⟨hpos, hv, hlegal⟩ := hg
  rw [queueInsert_result hr hv hpos hlegal]
  exact keepsLinks_edited
    (insertNode_links (linksOk_iff.mp hlinks) hk hm hpos (addressesLegal_of_nodesLegal hlegal))

theorem queueRemove_keepsLinks : KeepsLinks q (exec (.queueRemove q pos) s) := by
  refine keepsLinks_command hq hlinks (exec_queueRemove hq) fun hg => ?_
  rw [Bool.and_eq_true, decide_eq_true_eq, editable_iff hq] at hg
  obtain ⟨hpos, hv, hlegal⟩ := hg
  have hnode := List.getElem?_eq_getElem hpos
  rw [queueRemove_result hr hv hnode hlegal]
  exact keepsLinks_edited (removeNode_links (linksOk_iff.mp hlinks) hk hm hnode
    (addressesLegal_of_nodesLegal hv.2.2) (addressesLegal_of_nodesLegal hlegal))

theorem queueReplace_keepsLinks : KeepsLinks q (exec (.queueReplace q pos a) s) := by
  refine keepsLinks_command hq hlinks (exec_queueReplace hq) fun hg => ?_
  rw [Bool.and_eq_true, decide_eq_true_eq, editable_iff hq] at hg
  obtain ⟨hpos, hv, hlegal⟩ := hg
  have hnode := List.getElem?_eq_getElem hpos
  rw [queueReplace_result hr hv hnode hlegal]
  exact keepsLinks_edited (replaceNode_links (linksOk_iff.mp hlinks) hk hm hnode
    (addressesLegal_of_nodesLegal hv.2.2) (addressesLegal_of_nodesLegal hlegal))

theorem queueSetCircular_keepsLinks : KeepsLinks q (exec (.queueSetCircular q pos) s) := by
  refine keepsLinks_command hq hlinks (exec_queueSetCircular hq) fun hg => ?_
  rw [Bool.and_eq_true, decide_eq_true_eq, editable_iff hq] at hg
  obtain ⟨hpos, hv, hlegal⟩ := hg
  rw [queueSetCircular_result hr hv (List.getElem?_eq_getElem hpos)]
  exact keepsLinks_edited (retarget_links (linksOk_iff.mp hlinks) hk hm (addressesLegal_of_nodesLegal hlegal) _)

theorem queueClearCircular_keepsLinks : KeepsLinks q (exec (.queueClearCircular q) s) := by
  refine keepsLinks_command hq hlinks (exec_queueClearCircular hq) fun hg => ?_
  obtain ⟨hv, hlegal⟩ := (editable_iff hq).mp hg
  rw [queueClearCircular_result hr hv]
  exact keepsLinks_edited (retarget_links (linksOk_iff.mp hlinks) hk hm (addressesLegal_of_nodesLegal hlegal) _)

end Commands

/-- Settles O55: each operation is a violation, or rewrites the link words of exactly the places whose next node or loop
target changed. -/
theorem staticLinksKept : Obligations.StaticLinksKept := by
  unfold Obligations.StaticLinksKept
  intro s t q pos a kind v v' i hr hk hm hq hlinks hi hnext hv'
  suffices h : KeepsLinks q (exec i s) from h t v' hnext hv'
  simp only [List.mem_cons, List.not_mem_nil, or_false] at hi
  rcases hi with rfl | rfl | rfl | rfl | rfl | rfl
  · exact queueInit_keepsLinks hr kind
  · exact queueInsert_keepsLinks hr hk hm hq hlinks
  · exact queueRemove_keepsLinks hr hk hm hq hlinks
  · exact queueReplace_keepsLinks hr hk hm hq hlinks
  · exact queueSetCircular_keepsLinks hr hk hm hq hlinks
  · exact queueClearCircular_keepsLinks hr hk hm hq hlinks

end Sys2Proof.QueueLinks
end

section
/-! Images of nodes (10_state.md R21; 42_queue.md R197 to R200, R203, R205): which registers a mask stores, what an
expanded image holds register by register, and expansion inverts compaction (O59). -/

namespace Sys2Proof.NodeImages

open Sys2Proof.Machine Sys2Proof.Claims Sys2Proof.Encoding Sys2Proof.RegisterFile

variable {k : Cfg} {kind : Kind} {m : BitVec 8} {ws ctx img : List Word} {link : Word} {i j : Nat}

/-! ## The registers that a mask stores (42_queue.md R200) -/

theorem mem_kindRegs : i ∈ kindRegs k kind ↔ i < 8 ∧ (updAll k kind).getLsbD i = true := by
  simp [kindRegs, maskRegs]

theorem kindRegs_sorted (k : Cfg) (kind : Kind) : (kindRegs k kind).Pairwise (· < ·) :=
  List.pairwise_lt_range.filter _

theorem mem_storedRegs : i ∈ storedRegs k kind m ↔ i ∈ kindRegs k kind ∧ m.getLsbD i = true := List.mem_filter

theorem storedRegs_sorted (k : Cfg) (kind : Kind) (m : BitVec 8) : (storedRegs k kind m).Pairwise (· < ·) :=
  (kindRegs_sorted k kind).filter _

/-- A full node stores the registers of its kind. -/
theorem storedRegs_updAll (k : Cfg) (kind : Kind) : storedRegs k kind (updAll k kind) = kindRegs k kind :=
  List.filter_eq_self.mpr fun _ hi => (mem_kindRegs.mp hi).2

theorem nodeWords_le (k : Cfg) (kind : Kind) : nodeWords k kind ≤ 8 :=
  (List.length_filter_le ..).trans List.length_range.le

theorem storedRegs_length_le (k : Cfg) (kind : Kind) (m : BitVec 8) :
    (storedRegs k kind m).length ≤ nodeWords k kind := List.length_filter_le ..

/-- The link word is the last of the stored words (R200). -/
theorem storedRegs_eq_seven_iff (hk : k.wf = true) (hm : m.getLsbD 7 = true) (hj : j < (storedRegs k kind m).length) :
    (storedRegs k kind m)[j] = 7 ↔ j + 1 = (storedRegs k kind m).length := by
  have hseven : 7 ∈ storedRegs k kind m := mem_storedRegs.mpr ⟨mem_kindRegs.mpr ⟨by decide, updAll_cllr hk kind⟩, hm⟩
  obtain ⟨last, hlast, heq⟩ := List.getElem_of_mem hseven
  have hrising := List.pairwise_iff_getElem.mp (storedRegs_sorted k kind m)
  have hlt (i : Nat) (hi : i < (storedRegs k kind m).length) : (storedRegs k kind m)[i] < 8 :=
    (mem_kindRegs.mp (mem_storedRegs.mp (List.getElem_mem hi)).1).1
  have hend : last + 1 = (storedRegs k kind m).length := by
    by_contra hne
    have hnext := hrising last (last + 1) hlast (by omega) (by omega)
    have := hlt (last + 1) (by omega)
    omega
  constructor
  · intro hj7
    by_contra hne
    have := hrising j last hj hlast (by omega)
    omega
  · intro hj1
    have hidx : j = last := by omega
    subst hidx
    exact heq

/-! ## Images -/

theorem imgWord_map {α : Type} (f : α → Word) (l : List α) (hj : j < l.length) : imgWord (l.map f) j = f l[j] := by
  simp [imgWord, hj]

theorem imgWord_map_range (f : Nat → Word) {n : Nat} (hj : j < n) : imgWord ((List.range n).map f) j = f j := by
  simp [imgWord, hj]

/-- Images of eight words are equal when they are so word by word. -/
theorem eq_of_imgWord {img' : List Word} (hlen : img.length = 8) (hlen' : img'.length = 8)
    (h : ∀ i < 8, imgWord img i = imgWord img' i) : img = img' := by
  refine List.ext_getElem (hlen.trans hlen'.symm) fun i hi hi' => ?_
  simpa [imgWord, hi, hi'] using h i (hlen ▸ hi)

theorem imgWord_set (hlen : img.length = 8) : imgWord (img.set 7 link) i = if i = 7 then link else imgWord img i := by
  by_cases hi : i = 7
  · simp [imgWord, hi, hlen]
  · simp [imgWord, hi, List.getElem?_set_ne (Ne.symm hi)]

/-- Words of rising registers: the register's word is the one whose number is how many registers lie below it. -/
theorem imgWord_rank {l : List Nat} (hl : l.Pairwise (· < ·)) (hj : j < l.length) (ws : List Word) :
    imgWord ws (l.filter fun x => decide (x < l[j])).length = imgWord ws j := by
  have h := congrArg (·[j]?) (zip_range_map (imgWord ws) hl)
  simpa [List.zip, List.getElem?_zipWith, hj] using h.symm

theorem imgWord_expandImage (hi : i < 8) : imgWord (expandImage k kind m ws ctx) i =
    if (kindRegs k kind).contains i then
      if m.getLsbD i then imgWord ws ((storedRegs k kind m).filter fun j => decide (j < i)).length else imgWord ctx i
    else 0 := imgWord_map_range _ hi

@[simp] theorem expandImage_length (k : Cfg) (kind : Kind) (m : BitVec 8) (ws ctx : List Word) :
    (expandImage k kind m ws ctx).length = 8 := by simp [expandImage]

/-- A register that the mask stores is the stored word of its number (R203). -/
theorem imgWord_expandImage_stored (hj : j < (storedRegs k kind m).length) :
    imgWord (expandImage k kind m ws ctx) (storedRegs k kind m)[j] = imgWord ws j := by
  obtain ⟨hkind, hbit⟩ := mem_storedRegs.mp (List.getElem_mem hj)
  rw [imgWord_expandImage (mem_kindRegs.mp hkind).1, if_pos (by simpa using hkind), if_pos hbit,
    imgWord_rank (storedRegs_sorted k kind m) hj]

/-- A register that the mask lacks comes from the context (R203). -/
theorem imgWord_expandImage_dropped (hi : i ∈ kindRegs k kind) (hbit : m.getLsbD i = false) :
    imgWord (expandImage k kind m ws ctx) i = imgWord ctx i := by
  rw [imgWord_expandImage (mem_kindRegs.mp hi).1, if_pos (by simpa using hi), hbit]
  rfl

theorem imgWord_expandImage_absent (hlt : i < 8) (hi : i ∉ kindRegs k kind) :
    imgWord (expandImage k kind m ws ctx) i = 0 := by
  rw [imgWord_expandImage hlt, if_neg (by simpa using hi)]

/-- An image of a node of a kind: eight words, 0 where the kind has no register. -/
structure IsImage (k : Cfg) (kind : Kind) (img : List Word) : Prop where
  length : img.length = 8
  absent : ∀ i < 8, i ∉ kindRegs k kind → imgWord img i = 0

theorem isImage_expandImage (k : Cfg) (kind : Kind) (m : BitVec 8) (ws ctx : List Word) :
    IsImage k kind (expandImage k kind m ws ctx) :=
  ⟨expandImage_length .., fun _ hlt hi => imgWord_expandImage_absent hlt hi⟩

/-- An image with another link word. -/
theorem IsImage.set (hk : k.wf = true) (h : IsImage k kind img) (link : Word) : IsImage k kind (img.set 7 link) where
  length := by rw [List.length_set, h.length]
  absent i hlt hi := by
    have hne : i ≠ 7 := fun e => hi (e ▸ mem_kindRegs.mpr ⟨by decide, updAll_cllr hk kind⟩)
    rw [imgWord_set h.length, if_neg hne]
    exact h.absent i hlt hi

/-- Expansion gives the image whose stored registers are the words and whose other registers are the context's. -/
theorem expandImage_eq (himg : IsImage k kind img)
    (hstored : ∀ (j : Nat) (hj : j < (storedRegs k kind m).length), imgWord ws j = imgWord img (storedRegs k kind m)[j])
    (hdropped : ∀ i ∈ kindRegs k kind, m.getLsbD i = false → imgWord ctx i = imgWord img i) :
    expandImage k kind m ws ctx = img := by
  refine eq_of_imgWord (expandImage_length ..) himg.length fun i hlt => ?_
  by_cases hi : i ∈ kindRegs k kind
  · cases hbit : m.getLsbD i with
    | true =>
      obtain ⟨j, hj, rfl⟩ := List.getElem_of_mem (mem_storedRegs.mpr ⟨hi, hbit⟩)
      rw [imgWord_expandImage_stored hj, hstored j hj]
    | false => rw [imgWord_expandImage_dropped hi hbit, hdropped i hi hbit]
  · rw [imgWord_expandImage_absent hlt hi, himg.absent i hlt hi]

/-! ## Compaction (42_queue.md R197 to R200) -/

/-- The bits of a mask built from a list of bank indices. -/
theorem foldl_bits_getLsbD (l : List Nat) (m : BitVec 8) (hi : i < 8) :
    (l.foldl (fun m x => m ||| (1#8 <<< x)) m).getLsbD i = (m.getLsbD i || decide (i ∈ l)) := by
  induction l generalizing m with
  | nil => simp
  | cons x l ih =>
    have hbit : (1#8 <<< x).getLsbD i = decide (i = x) := by
      rw [BitVec.getLsbD_shiftLeft, decide_eq_true hi, Bool.true_and, BitVec.getLsbD_one, Bool.eq_iff_iff]
      simp only [Bool.and_eq_true, Bool.not_eq_true', decide_eq_true_eq, decide_eq_false_iff_not]
      omega
    rw [List.foldl_cons, ih, BitVec.getLsbD_or, hbit, Bool.or_assoc]
    simp

/-- The present mask has exactly the bits of the registers that are kept (R197, R205). -/
theorem presentMask_getLsbD (hi : i < 8) :
    (presentMask k kind ctx img).getLsbD i = ((updAll k kind).getLsbD i && keeps ctx img i) := by
  rw [presentMask, foldl_bits_getLsbD _ _ hi, Bool.eq_iff_iff]
  simp [mem_kindRegs, hi]

/-- The link word is always kept (R199). -/
theorem presentMask_cllr (hk : k.wf = true) : (presentMask k kind ctx img).getLsbD 7 = true := by
  rw [presentMask_getLsbD (by decide), updAll_cllr hk]
  rfl

/-- A register that a present mask lacks is the context's (R197). -/
theorem imgWord_of_not_present (hi : i ∈ kindRegs k kind) (hbit : (presentMask k kind ctx img).getLsbD i = false) :
    imgWord img i = imgWord ctx i ∧ i ≠ 7 := by
  obtain ⟨hlt, hkind⟩ := mem_kindRegs.mp hi
  rw [presentMask_getLsbD hlt, hkind, Bool.true_and] at hbit
  simp only [keeps, Bool.or_eq_false_iff, beq_eq_false_iff_ne, bne_eq_false_iff_eq] at hbit
  exact ⟨hbit.2, hbit.1.2⟩

theorem storedWords_length (k : Cfg) (kind : Kind) (m : BitVec 8) (img : List Word) (link : Word) :
    (storedWords k kind m img link).length = (storedRegs k kind m).length := List.length_map ..

theorem imgWord_storedWords (hlen : img.length = 8) (hj : j < (storedRegs k kind m).length) :
    imgWord (storedWords k kind m img link) j = imgWord (img.set 7 link) (storedRegs k kind m)[j] := by
  rw [storedWords, imgWord_map _ _ hj, imgWord_set hlen]

/-- Expansion inverts compaction but for the link word, for a context that agrees with the node where the mask has no
bit (R203, R205). -/
theorem expandImage_storedWords (hk : k.wf = true) (himg : IsImage k kind img)
    (hctx : ∀ i ∈ kindRegs k kind, m.getLsbD i = false → imgWord ctx i = imgWord img i ∧ i ≠ 7) :
    expandImage k kind m (storedWords k kind m img link) ctx = img.set 7 link := by
  refine expandImage_eq (himg.set hk link) (fun j hj => imgWord_storedWords himg.length hj) fun i hi hbit => ?_
  obtain ⟨heq, hne⟩ := hctx i hi hbit
  rw [imgWord_set himg.length, if_neg hne, heq]

/-- Settles O59: the mask bit by bit, and expansion register by register. -/
theorem compactionExpands : Obligations.CompactionExpands := by
  unfold Obligations.CompactionExpands
  intro k kind ctx img link hk hlen habsent
  have himg : IsImage k kind img :=
    ⟨hlen, fun i hlt hi => habsent i hlt (by simpa [mem_kindRegs, hlt] using hi)⟩
  refine ⟨fun i hi => presentMask_getLsbD hi, expandImage_storedWords hk himg fun i hi hbit => ?_⟩
  obtain ⟨heq, hne⟩ := imgWord_of_not_present hi hbit
  exact ⟨heq.symm, hne⟩

end Sys2Proof.NodeImages
end

section
/-! The conversions (42_queue.md R197 to R203): `convert_to_dynamic` and its second pass (O57), `convert_to_static`
(O58). -/

namespace Sys2Proof.Conversions

open Sys2Proof.Machine Sys2Proof.Claims Sys2Proof.QueueEdits Sys2Proof.NodeImages

variable {k : Cfg} {kind : Kind} {s t u : State} {q a p : Word} {v : Queue} {as got ctx : List Word}

/-! ## Words read and stored one after the other (42_queue.md R197, R203; log 56) -/

/-- A run of word reads, then what the conversion does with the words. -/
theorem Runs.readWords {c : ReadCont} {ops : List HostOp} {n : Nat}
    (hdone : readDone c (got ++ as.map (readWord s.mem)) s = .go ops t) (h : Runs n ops t u) :
    Runs (n + 1 + as.length) [.readWords as got c] s u := by
  induction as generalizing got with
  | nil => exact Runs.op (by simpa [runOp] using hdone) h
  | cons a as ih => exact Runs.op rfl (ih (by simpa using hdone))

theorem Stores.writeOps (a : Word) (ws : List Word) : Stores (Machine.writeOps a ws) fun m => storeWords m a ws := by
  rw [Machine.writeOps, ← List.flatMap_singleton' ((List.range _).map _), List.flatMap_map]
  exact Stores.flatMap fun i _ => .memWrite (wordAddr a i) (imgWord ws i)

theorem writeOps_length (a : Word) (ws : List Word) : (writeOps a ws).length = ws.length := by simp [writeOps]

theorem length_flatMap_le {α β : Type} {f : α → List β} {c : Nat} {l : List α} (h : ∀ x ∈ l, (f x).length ≤ c) :
    (l.flatMap f).length ≤ c * l.length := by
  induction l with
  | nil => simp
  | cons x l ih =>
    obtain ⟨hx, hl⟩ := List.forall_mem_cons.mp h
    have := ih hl
    rw [List.flatMap_cons, List.length_append, List.length_cons, Nat.mul_succ]
    omega

theorem wordAddrs_length (a : Word) (n : Nat) : (wordAddrs a n).length = n := by simp [wordAddrs]

/-- The words of a full node as they are read. -/
theorem imageOf_wordAddrs (k : Cfg) (kind : Kind) (m : Memory) (a : Word) :
    imageOf k kind ((wordAddrs a (nodeWords k kind)).map (readWord m)) = fullImage k m kind a := by
  simp [fullImage, wordAddrs, wordAddr, Function.comp_def]

/-! ## The second pass (42_queue.md R201, R202) -/

/-- The memory with the link word of node `i` written as the dynamic queue requires it; no node, no write. -/
def relinkedDynamic (k : Cfg) (v : Queue) (i : Nat) (m : Memory) : Memory :=
  match v.nodes[i]? with
  | some n => writeWord m (storedLinkAddr k v.kind n) (dynamicLinkWord k v i)
  | none => m

theorem relinkDynamic_eq (k : Cfg) (v : Queue) (m : Memory) :
    relinkDynamic k v m = (List.range v.nodes.length).foldl (fun m i => relinkedDynamic k v i m) m := by
  unfold relinkDynamic
  congr
  funext m i
  unfold relinkedDynamic dynamicLinkWord
  cases v.nodes[i]? with
  | none => rfl
  | some n =>
    cases v.nodes[i + 1]? with
    | some x => rfl
    | none => cases v.fc <;> rfl

theorem Stores.secondPass (k : Cfg) (v : Queue) : Stores (Machine.secondPass k v) (relinkDynamic k v) := by
  have h : Stores (Machine.secondPass k v) fun m =>
      (List.range v.nodes.length).foldl (fun m i => relinkedDynamic k v i m) m := by
    refine Stores.flatMap fun i _ => ?_
    unfold relinkedDynamic
    cases v.nodes[i]? with
    | none => exact .nil
    | some n => exact .memWrite _ _
  simpa only [← relinkDynamic_eq] using h

theorem secondPass_length (k : Cfg) (v : Queue) : (secondPass k v).length ≤ v.nodes.length := by
  have h : (secondPass k v).length ≤ 1 * (List.range v.nodes.length).length :=
    length_flatMap_le fun i _ => by split <;> simp
  simpa using h

/-- The second pass issued alone or inside the conversion. -/
theorem runs_updateLinks (hq : s.queue q = some v) : Runs ((secondPass s.cfg v).length + 1) [.updateLinks q] s
    { s with mem := relinkDynamic s.cfg v s.mem } :=
  Runs.op (by simp [runOp, hq]) ((Stores.secondPass s.cfg v).runs s)

theorem updateDynamicQueueLinks_result (hr : QueueReady s v) (hq : s.queue q = some v) (hnodes : v.nodes ≠ [])
    (hlegal : nodesLegal s v.kind (queueAddrs v) = true) (hformat : v.format = .dynamic) :
    exec (.updateDynamicQueueLinks q) s =
      .next ({ s with mem := relinkDynamic s.cfg v s.mem }.answer (plainReply .ok)) := by
  obtain ⟨hp, hquantum⟩ := hr
  have hlen := secondPass_length s.cfg v
  have hcount : 1 ≤ nodeCount v := List.length_pos_of_ne_nil hnodes
  rw [exec_updateDynamicQueueLinks hq, command_run (by simp [convertible, hformat, hcount, hlegal]), guarded_nil]
  exact ((runs_updateLinks hq).append (.single (runOp_ret ..))).runHost hp (by omega) (by simp) (by simp)

/-! ## The first pass of `convert_to_dynamic` (42_queue.md R197, R200) -/

/-- The nodes behind node `p` with their present masks, for the images `img`. -/
def presentNodes (k : Cfg) (kind : Kind) (img : Word → List Word) (p : Word) (as : List Word) : List QNode :=
  List.zipWith (fun p b => ⟨b, presentMask k kind (img p) (img b)⟩) (p :: as) as

@[simp] theorem presentNodes_nil (img : Word → List Word) : presentNodes k kind img p [] = [] := rfl

@[simp] theorem presentNodes_cons (img : Word → List Word) :
    presentNodes k kind img p (a :: as) = ⟨a, presentMask k kind (img p) (img a)⟩ :: presentNodes k kind img a as := rfl

/-- Nodes stored in compact form, one after the other. -/
def compactNodes (k : Cfg) (kind : Kind) (img : Word → List Word) (ns : List QNode) (m : Memory) : Memory :=
  ns.foldl (fun m n => storeWords m n.addr (compactWords k kind n.present (img n.addr))) m

theorem dynamicNodes_eq (k : Cfg) (m : Memory) (h : queueAddrs v = a :: as) :
    dynamicNodes k m v = ⟨a, updAll k v.kind⟩ :: presentNodes k v.kind (fullImage k m v.kind) a as := by
  simp only [dynamicNodes, h, presentNodes]

theorem dynamicNodes_nil (k : Cfg) (m : Memory) (h : queueAddrs v = []) : dynamicNodes k m v = [] := by
  simp only [dynamicNodes, h]

theorem compacted_eq (k : Cfg) (m : Memory) (v : Queue) :
    compacted k m v = compactNodes k v.kind (fullImage k m v.kind) (dynamicNodes k m v).tail m := rfl

/-- A compacted node and its padding fill the static footprint (R200). -/
theorem compactWords_length (k : Cfg) (kind : Kind) (m : BitVec 8) (img : List Word) :
    (compactWords k kind m img).length = nodeWords k kind := by
  have := storedRegs_length_le k kind m
  rw [compactWords, List.length_append, storedWords_length, List.length_replicate]
  omega

/-- The words of consecutive full nodes are cut into their images. -/
theorem splitImages_flatMap (k : Cfg) (kind : Kind) (m : Memory) (as : List Word) :
    splitImages k kind as ((as.flatMap fun a => wordAddrs a (nodeWords k kind)).map (readWord m)) =
      as.map fun a => (a, fullImage k m kind a) := by
  induction as with
  | nil => rfl
  | cons a as ih =>
    have hlen : ((wordAddrs a (nodeWords k kind)).map (readWord m)).length = nodeWords k kind := by
      rw [List.length_map, wordAddrs_length]
    rw [List.flatMap_cons, List.map_append, splitImages, List.take_left' hlen, List.drop_left' hlen, ih,
      imageOf_wordAddrs]
    rfl

/-- The state behind a conversion: memory, the record and the reply `Ok`. -/
def converted (s : State) (q : Word) (v : Queue) (m : Memory) : State :=
  ({ s with mem := m }.putQueue q v).answer (plainReply .ok)

@[simp] theorem converted_cfg (s : State) (q : Word) (v : Queue) (m : Memory) : (converted s q v m).cfg = s.cfg := by
  simp [converted]
@[simp] theorem converted_mem (s : State) (q : Word) (v : Queue) (m : Memory) : (converted s q v m).mem = m := by
  simp [converted]
@[simp] theorem converted_nodeKinds (s : State) (q : Word) (v : Queue) (m : Memory) :
    (converted s q v m).nodeKinds = s.nodeKinds := by simp [converted]
@[simp] theorem converted_quantum (s : State) (q : Word) (v : Queue) (m : Memory) :
    (converted s q v m).quantum = s.quantum := by simp [converted]
@[simp] theorem converted_isr (s : State) (q : Word) (v : Queue) (m : Memory) : (converted s q v m).isr = s.isr := by
  simp [converted]
@[simp] theorem converted_todo (s : State) (q : Word) (v : Queue) (m : Memory) :
    (converted s q v m).app.todo = s.app.todo := by simp [converted]
@[simp] theorem converted_pending (s : State) (q : Word) (v : Queue) (m : Memory) :
    (converted s q v m).pending = s.pending := by simp only [State.pending, converted_isr, converted_todo]
@[simp] theorem converted_queue (s : State) (q : Word) (v : Queue) (m : Memory) :
    (converted s q v m).queue q = some v := by simp [converted]

/-- The end of the first pass: the masks, the second pass, the format and `Ok`. -/
theorem runs_compact_nil (hq : s.queue q = some v) (m : Memory) (ctx : List Word) (done : List QNode) :
    Runs ((secondPass s.cfg { v with nodes := done }).length + 5) [.compact q ctx [] done] { s with mem := m }
      (converted s q { v with nodes := done, format := .dynamic }
        (relinkDynamic s.cfg { v with nodes := done, format := .dynamic } m)) := by
  have hop : runOp (.compact q ctx [] done) { s with mem := m } =
      .go (compactNext s.cfg q v ctx [] done) { s with mem := m } := by
    simp only [runOp, show ({ s with mem := m } : State).queue q = some v from hq]
  have hmasks := Runs.single (runOp_setQueue q { v with nodes := done } { s with mem := m })
  have hlinks := runs_updateLinks (queue_putQueue_same { s with mem := m } q { v with nodes := done })
  have hend := (hmasks.append hlinks).append
    (runs_setQueue_ret q { v with nodes := done, format := .dynamic } (plainReply .ok) _)
  have hstate : converted s q { v with nodes := done, format := .dynamic }
      (relinkDynamic s.cfg { v with nodes := done, format := .dynamic } m) =
      (({ s with mem := relinkDynamic s.cfg { v with nodes := done } m }.putQueue q { v with nodes := done }).putQueue q
        { v with nodes := done, format := .dynamic }).answer (plainReply .ok) := by
    rw [putQueue_putQueue_same]
    rfl
  have hcount : (secondPass s.cfg { v with nodes := done }).length + 5 =
      1 + ((secondPass s.cfg { v with nodes := done }).length + 1) + 2 + 1 := by omega
  rw [hstate, hcount]
  exact Runs.op hop hend

/-- The walk over the nodes behind `p`: each is compared with the node before it and stored (R197). -/
theorem runs_compact (hq : s.queue q = some v) (img : Word → List Word) {m : Memory} {done : List QNode} {e : Nat}
    (hend : ∀ ctx, Runs e [.compact q ctx [] (done ++ presentNodes s.cfg v.kind img p as)]
      { s with mem := compactNodes s.cfg v.kind img (presentNodes s.cfg v.kind img p as) m } u) :
    Runs (e + (nodeWords s.cfg v.kind + 1) * as.length) [.compact q (img p) (as.map fun a => (a, img a)) done]
      { s with mem := m } u := by
  induction as generalizing p done m with
  | nil => simpa [compactNodes] using hend (img p)
  | cons a as ih =>
    have hop : runOp (.compact q (img p) ((a :: as).map fun a => (a, img a)) done) { s with mem := m } =
        .go (compactNext s.cfg q v (img p) ((a :: as).map fun a => (a, img a)) done) { s with mem := m } := by
      simp only [runOp, show ({ s with mem := m } : State).queue q = some v from hq]
    have hstore := (Stores.writeOps a
      (compactWords s.cfg v.kind (presentMask s.cfg v.kind (img p) (img a)) (img a))).runs { s with mem := m }
    rw [writeOps_length, compactWords_length] at hstore
    have hrest := ih (p := a) (done := done ++ [⟨a, presentMask s.cfg v.kind (img p) (img a)⟩])
      fun ctx => by simpa [compactNodes] using hend ctx
    have hcount : e + (nodeWords s.cfg v.kind + 1) * (a :: as).length =
        nodeWords s.cfg v.kind + (e + (nodeWords s.cfg v.kind + 1) * as.length) + 1 := by
      rw [List.length_cons, Nat.mul_succ]; omega
    rw [hcount]
    exact Runs.op hop (hstore.append hrest)

theorem presentNodes_length (img : Word → List Word) : (presentNodes k kind img p as).length = as.length := by
  simp [presentNodes]

theorem queueAddrs_length (v : Queue) : (queueAddrs v).length = v.nodes.length := List.length_map ..

theorem convertible_of_legal {f : Format} (hformat : v.format = f) (hnodes : v.nodes ≠ [])
    (hlegal : nodesLegal s v.kind (queueAddrs v) = true) : convertible s v f = true := by
  have hcount : 1 ≤ nodeCount v := List.length_pos_of_ne_nil hnodes
  simp [convertible, hformat, hcount, hlegal]

theorem convertToDynamic_result (hr : QueueReady s v) (hq : s.queue q = some v) (hnodes : v.nodes ≠ [])
    (hlegal : nodesLegal s v.kind (queueAddrs v) = true) (hformat : v.format = .static) :
    exec (.convertToDynamic q) s = edited s q { v with format := .dynamic, nodes := dynamicNodes s.cfg s.mem v }
      (relinkDynamic s.cfg { v with format := .dynamic, nodes := dynamicNodes s.cfg s.mem v }
        (compacted s.cfg s.mem v)) s.nodeKinds := by
  obtain ⟨hp, hquantum⟩ := hr
  obtain ⟨a, as, haddrs⟩ := List.exists_cons_of_ne_nil (l := queueAddrs v) (by simpa [queueAddrs] using hnodes)
  have hlen : as.length + 1 = v.nodes.length := by rw [← queueAddrs_length, haddrs, List.length_cons]
  have hnodesEq := dynamicNodes_eq s.cfg s.mem haddrs
  have hmem : compacted s.cfg s.mem v = compactNodes s.cfg v.kind (fullImage s.cfg s.mem v.kind)
      (presentNodes s.cfg v.kind (fullImage s.cfg s.mem v.kind) a as) s.mem := by
    rw [compacted_eq, hnodesEq, List.tail_cons]
  have hread : readDone (.toDynamic q) ([] ++ ((queueAddrs v).flatMap fun a =>
      wordAddrs a (nodeWords s.cfg v.kind)).map (readWord s.mem)) s =
      .go [.compact q (fullImage s.cfg s.mem v.kind a) (as.map fun a => (a, fullImage s.cfg s.mem v.kind a))
        [⟨a, updAll s.cfg v.kind⟩]] s := by
    simp only [readDone, hq, List.nil_append, splitImages_flatMap, haddrs, List.map_cons]
  have hruns := Runs.readWords hread (runs_compact hq (fullImage s.cfg s.mem v.kind) (p := a) (as := as)
    (done := [⟨a, updAll s.cfg v.kind⟩]) fun ctx => runs_compact_nil hq _ ctx _)
  rw [List.singleton_append, ← hnodesEq, ← hmem] at hruns
  have hpass := secondPass_length s.cfg { v with nodes := dynamicNodes s.cfg s.mem v }
  have hwords := nodeWords_le s.cfg v.kind
  have hreads : ((queueAddrs v).flatMap fun a => wordAddrs a (nodeWords s.cfg v.kind)).length ≤ 8 * v.nodes.length := by
    rw [← queueAddrs_length]
    exact length_flatMap_le fun a _ => by rwa [wordAddrs_length]
  have hwalk : (nodeWords s.cfg v.kind + 1) * as.length ≤ 9 * as.length := Nat.mul_le_mul_right _ (by omega)
  have hdone : (dynamicNodes s.cfg s.mem v).length = v.nodes.length := by
    rw [hnodesEq, List.length_cons, presentNodes_length, hlen]
  rw [hdone] at hpass
  rw [exec_convertToDynamic hq, command_run (convertible_of_legal hformat hnodes hlegal), guarded_nil]
  exact hruns.runHost hp (by omega) (by simp) (by simp)

/-- Settles O57: the reads, the walk over the nodes and the second pass are one run. -/
theorem convertToDynamicResult : Obligations.ConvertToDynamicResult := by
  unfold Obligations.ConvertToDynamicResult
  intro s q v hr hq hnodes hlegal
  exact ⟨convertToDynamic_result hr hq hnodes hlegal, updateDynamicQueueLinks_result hr hq hnodes hlegal⟩

/-! ## The walk of `convert_to_static` (42_queue.md R203) -/

theorem imageRegs_length (k : Cfg) (kind : Kind) (img : List Word) :
    (imageRegs k kind img).length = nodeWords k kind - 1 := by
  rw [imageRegs, List.length_map, List.length_dropLast, nodeWords]

theorem queueAddrs_fullNodes (k : Cfg) (kind : Kind) (as : List Word) :
    (fullNodes k kind as).map QNode.addr = as := by
  simp [fullNodes, Function.comp_def]

/-- The static link words depend on the record's addresses, kind and loop target only. -/
theorem relinked_static (k : Cfg) (v : Queue) :
    relinked k { v with format := .static, nodes := fullNodes k v.kind (queueAddrs v) } = relinked k v := by
  funext i m
  simp only [relinked, required, queueAddrs, queueAddrs_fullNodes]

/-- The registers of every node, then every link word (R203). -/
theorem Stores.expandWrites (k : Cfg) (v : Queue) (imgs : List (List Word)) :
    Stores (Machine.expandWrites k v imgs) fun m => (List.range v.nodes.length).foldl (fun m i => relinked k v i m)
      (((queueAddrs v).zip imgs).foldl (fun m p => storeWords m p.1 (imageRegs k v.kind p.2)) m) := by
  have hregs := Stores.flatMap (l := v.nodes.zip imgs) fun p _ => Stores.writeOps p.1.addr (imageRegs k v.kind p.2)
  have hlinks := Stores.flatMap (l := List.range v.nodes.length) fun i _ => Stores.staticLinkWrite k v i
  have hzip (m : Memory) : ((queueAddrs v).zip imgs).foldl (fun m p => storeWords m p.1 (imageRegs k v.kind p.2)) m =
      (v.nodes.zip imgs).foldl (fun m p => storeWords m p.1.addr (imageRegs k v.kind p.2)) m := by
    rw [queueAddrs, List.zip_map_left, List.foldl_map]
    rfl
  simp only [hzip]
  exact hregs.append hlinks

theorem expandWrites_length (k : Cfg) (v : Queue) (imgs : List (List Word)) :
    (expandWrites k v imgs).length ≤ 9 * v.nodes.length := by
  have hwords := nodeWords_le k v.kind
  have hregs : ((v.nodes.zip imgs).flatMap fun p => writeOps p.1.addr (imageRegs k v.kind p.2)).length ≤
      8 * (v.nodes.zip imgs).length :=
    length_flatMap_le fun p _ => by rw [writeOps_length, imageRegs_length]; omega
  have hlinks : ((List.range v.nodes.length).flatMap fun i => staticLinkWrite k v i).length ≤
      1 * (List.range v.nodes.length).length := length_flatMap_le fun i _ => staticLinkWrite_length k v i
  rw [List.length_zip] at hregs
  rw [List.length_range] at hlinks
  rw [Machine.expandWrites, List.length_append]
  omega

/-- The end of the conversion: the writes, the record and `Ok`. -/
theorem runs_expandEnd (s : State) (q : Word) (v : Queue) (imgs : List (List Word)) :
    Runs ((expandWrites s.cfg v imgs).length + 2) (expandEnd s.cfg q v imgs) s
      (converted s q { v with format := .static, nodes := fullNodes s.cfg v.kind (queueAddrs v) }
        ((List.range v.nodes.length).foldl (fun m i => relinked s.cfg v i m)
          (((queueAddrs v).zip imgs).foldl (fun m p => storeWords m p.1 (imageRegs s.cfg v.kind p.2)) s.mem))) :=
  ((Stores.expandWrites s.cfg v imgs).runs s).append (runs_setQueue_ret q _ _ _)

/-- The mask that the link word of an image holds: the registers that the next node stores (R203). -/
def nextMask (k : Cfg) (img : List Word) : BitVec 8 := linkUpd k.layout (imgWord img 7)

/-- The image of the node at an address behind the node with the image `ctx` (R203). -/
def nextImage (k : Cfg) (m : Memory) (kind : Kind) (ctx : List Word) (a : Word) : List Word :=
  expandImage k kind (nextMask k ctx)
    ((wordAddrs a (storedRegs k kind (nextMask k ctx)).length).map (readWord m)) ctx

theorem expanded_cons (k : Cfg) (m : Memory) (kind : Kind) (ctx : List Word) (a : Word) (as : List Word) :
    expanded k m kind ctx (a :: as) =
      nextImage k m kind ctx a :: expanded k m kind (nextImage k m kind ctx a) as := by
  simp [expanded, nextImage, nextMask, wordAddrs, wordAddr, Function.comp_def]

/-- The mask of the link word of an image keeps `U_CLLR` (else 93_implementation_defined.md U8). -/
def KeepsLink (k : Cfg) (img : List Word) : Prop := (nextMask k img).getLsbD 7 = true

/-- The walk over the nodes behind the context: each node is read by the mask of the link word before it (R203). -/
theorem runs_expandNext (hq : s.queue q = some v) {done : List (List Word)} {e : Nat}
    (hmasks : ∀ img ∈ (ctx :: expanded s.cfg s.mem v.kind ctx as).dropLast, KeepsLink s.cfg img)
    (hend : Runs e (expandEnd s.cfg q v (done ++ expanded s.cfg s.mem v.kind ctx as)) s u) :
    ∃ ops n, n ≤ e + 10 * as.length ∧ Runs n ops s u ∧
      expandNext q v ⟨as, ctx, nextMask s.cfg ctx, done⟩ s = .go ops s := by
  induction as generalizing ctx done with
  | nil => exact ⟨_, e, le_rfl, by simpa [expanded] using hend, rfl⟩
  | cons a as ih =>
    rw [expanded_cons] at hmasks hend
    rw [List.dropLast_cons_of_ne_nil (List.cons_ne_nil _ _), List.forall_mem_cons] at hmasks
    obtain ⟨hmask, hrest⟩ := hmasks
    obtain ⟨ops, n, hn, hruns, hnext⟩ := ih hrest (done := done ++ [nextImage s.cfg s.mem v.kind ctx a])
      (by simpa using hend)
    have hdone : readDone (.toStatic q ⟨a :: as, ctx, nextMask s.cfg ctx, done⟩)
        ([] ++ (wordAddrs a (storedRegs s.cfg v.kind (nextMask s.cfg ctx)).length).map (readWord s.mem)) s =
        .go ops s := by
      simp only [readDone, hq, List.nil_append, List.tail_cons]
      exact hnext
    have hlen := (storedRegs_length_le s.cfg v.kind (nextMask s.cfg ctx)).trans (nodeWords_le s.cfg v.kind)
    refine ⟨_, _, ?_, Runs.readWords hdone hruns, if_pos hmask⟩
    rw [wordAddrs_length, List.length_cons]
    omega

theorem convertToStatic_result (hr : QueueReady s v) (hq : s.queue q = some v) (haddrs : queueAddrs v = a :: as)
    (hlegal : nodesLegal s v.kind (queueAddrs v) = true) (hformat : v.format = .dynamic)
    (hmasks : ∀ img ∈ (fullImage s.cfg s.mem v.kind a ::
      expanded s.cfg s.mem v.kind (fullImage s.cfg s.mem v.kind a) as).dropLast, KeepsLink s.cfg img) :
    exec (.convertToStatic q) s = .next
      (converted s q { v with format := .static, nodes := fullNodes s.cfg v.kind (queueAddrs v) }
        ((List.range v.nodes.length).foldl (fun m i => relinked s.cfg v i m)
          (((queueAddrs v).zip (fullImage s.cfg s.mem v.kind a ::
            expanded s.cfg s.mem v.kind (fullImage s.cfg s.mem v.kind a) as)).foldl
            (fun m p => storeWords m p.1 (imageRegs s.cfg v.kind p.2)) s.mem))) := by
  obtain ⟨hp, hquantum⟩ := hr
  have hlen : as.length + 1 = v.nodes.length := by rw [← queueAddrs_length, haddrs, List.length_cons]
  have hnodes : v.nodes ≠ [] := List.ne_nil_of_length_pos (by omega)
  obtain ⟨ops, n, hn, hruns, hnext⟩ := runs_expandNext hq (done := [fullImage s.cfg s.mem v.kind a]) hmasks
    (runs_expandEnd s q v _)
  have hdone : readDone (.toStaticHead q) ([] ++ (wordAddrs a (nodeWords s.cfg v.kind)).map (readWord s.mem)) s =
      .go ops s := by
    simp only [readDone, hq, haddrs, List.nil_append, imageOf_wordAddrs, List.tail_cons]
    exact hnext
  have hwords := nodeWords_le s.cfg v.kind
  have hwrites := expandWrites_length s.cfg v ([fullImage s.cfg s.mem v.kind a] ++
    expanded s.cfg s.mem v.kind (fullImage s.cfg s.mem v.kind a) as)
  rw [exec_convertToStatic hq, command_run (convertible_of_legal hformat hnodes hlegal), guarded_nil, haddrs,
    List.headD_cons]
  have hrun := Runs.readWords hdone hruns
  rw [wordAddrs_length, haddrs] at hrun
  exact hrun.runHost hp (by omega) (by simp) (by simp)

/-- Settles O58: the reads of the head, the walk over the nodes behind it and the writes are one run. -/
theorem convertToStaticResult : Obligations.ConvertToStaticResult := by
  unfold Obligations.ConvertToStaticResult
  intro s q v a as hr hq haddrs hlegal hformat head imgs hmasks v' stored
  have hv' : v' = { v with format := .static, nodes := fullNodes s.cfg v.kind (queueAddrs v) } := by
    rw [haddrs]
    rfl
  have h := convertToStatic_result hr hq haddrs (haddrs ▸ hlegal) hformat hmasks
  rw [← hv', ← relinked_static, ← hv', haddrs] at h
  rw [h]
  rfl

end Sys2Proof.Conversions
end

section
/-! The round trip of the conversions (42_queue.md R204): what memory holds between and after the two, node by node
(O60). -/

namespace Sys2Proof.RoundTrip

open Sys2Proof.Machine Sys2Proof.Claims Sys2Proof.LinkWord Sys2Proof.Encoding Sys2Proof.QueueEdits
  Sys2Proof.QueueLinks Sys2Proof.NodeImages Sys2Proof.Conversions

/-! ## Writes made one after the other -/

section Folds

variable {ι : Type} {l : List ι} {f : Memory → ι → Memory} {x w : Word} {m : Memory}

theorem foldl_wf (hf : ∀ m i, Memory.wf m = true → Memory.wf (f m i) = true) (hm : Memory.wf m = true) :
    Memory.wf (l.foldl f m) = true := by
  induction l generalizing m with
  | nil => exact hm
  | cons i l ih => exact ih (hf m i hm)

/-- A word that none of the writes touches reads as before. -/
theorem readWord_foldl_untouched (h : ∀ i ∈ l, ∀ m, readWord (f m i) x = readWord m x) :
    readWord (l.foldl f m) x = readWord m x := by
  induction l generalizing m with
  | nil => rfl
  | cons i l ih =>
    obtain ⟨hi, hl⟩ := List.forall_mem_cons.mp h
    exact (ih hl).trans (hi m)

/-- A word that only the write `i` touches reads as that one leaves it. -/
theorem readWord_foldl_written {i : ι} (hi : i ∈ l) (hf : ∀ m i, Memory.wf m = true → Memory.wf (f m i) = true)
    (hself : ∀ m, Memory.wf m = true → readWord (f m i) x = w)
    (hother : ∀ j ∈ l, j ≠ i → ∀ m, readWord (f m j) x = readWord m x) (hm : Memory.wf m = true) :
    readWord (l.foldl f m) x = w := by
  induction l generalizing m with
  | nil => simp at hi
  | cons j l ih =>
    obtain ⟨hj, hl⟩ := List.forall_mem_cons.mp hother
    by_cases hil : i ∈ l
    · exact ih hil hl (hf m j hm)
    · obtain rfl : i = j := (List.mem_cons.mp hi).resolve_right hil
      have hrest : ∀ j ∈ l, ∀ m, readWord (f m j) x = readWord m x := fun j hjl =>
        hl j hjl fun e => hil (e ▸ hjl)
      exact (readWord_foldl_untouched hrest).trans (hself m hm)

end Folds

/-! ## Words stored into the nodes of a queue (42_queue.md R191) -/

section Nodes

variable {words x y j : Nat} {as : List Word} {a b : Word} {m : Memory} {ws : List Word}

theorem apart_of_mem (hlegal : addressesLegal words as = true) (ha : a ∈ as) (hb : b ∈ as) (hx : x < words)
    (hy : y < words) (hne : a ≠ b ∨ x ≠ y) : Apart (wordAddr a x) (wordAddr b y) := by
  obtain ⟨i, hi⟩ := List.getElem?_of_mem ha
  obtain ⟨j, hj⟩ := List.getElem?_of_mem hb
  refine apart_of_legal hlegal hi hj hx hy (or_iff_not_imp_left.mpr fun hij => hne.resolve_left (not_not.mpr ?_))
  rw [not_not.mp hij, hj, Option.some.injEq] at hi
  exact hi.symm

/-- Nodes of a queue lie at different addresses. -/
theorem nodup_of_legal (hwords : 0 < words) (hlegal : addressesLegal words as = true) : as.Nodup := by
  refine (addressesLegal_iff.mp hlegal).2.imp fun {a b} hdisjoint => ?_
  rintro rfl
  have := footprintsDisjoint_iff.mp hdisjoint
  omega

theorem storeWords_wf (a : Word) (ws : List Word) (hm : Memory.wf m = true) : Memory.wf (storeWords m a ws) = true :=
  foldl_wf (fun m _ hm => writeWord_wf m _ _ hm) hm

/-- Words stored into one node leave the words of another. -/
theorem readWord_storeWords_ne (hlegal : addressesLegal words as = true) (ha : a ∈ as) (hb : b ∈ as) (hne : a ≠ b)
    (hx : x < words) (hlen : ws.length ≤ words) (m : Memory) :
    readWord (storeWords m b ws) (wordAddr a x) = readWord m (wordAddr a x) :=
  readWord_foldl_untouched fun i hi m =>
    readWord_writeWord_of_apart m _ (apart_of_mem hlegal ha hb hx (by have := List.mem_range.mp hi; omega) (.inl hne))

/-- Words stored into a node read back. -/
theorem readWord_storeWords (hlegal : addressesLegal words as = true) (ha : a ∈ as) (hlen : ws.length ≤ words)
    (hj : j < ws.length) (hm : Memory.wf m = true) :
    readWord (storeWords m a ws) (wordAddr a j) = imgWord ws j := by
  refine readWord_foldl_written (List.mem_range.mpr hj) (fun m _ hm => writeWord_wf m _ _ hm)
    (fun m hm => readWord_writeWord_same m _ _ hm) (fun i hi hij m => ?_) hm
  have hi := List.mem_range.mp hi
  exact readWord_writeWord_of_apart m _ (apart_of_mem hlegal ha ha (by omega) (by omega) (.inr (Ne.symm hij)))

variable {ι : Type} {l : List ι} {addr : ι → Word} {word : ι → List Word} {n : ι}

/-- Nodes stored one after the other leave the words of any other node. -/
theorem readWord_storeNodes_ne (hlegal : addressesLegal words as = true) (hmem : ∀ n ∈ l, addr n ∈ as)
    (hlen : ∀ n ∈ l, (word n).length ≤ words) (ha : a ∈ as) (hnot : a ∉ l.map addr) (hx : x < words) :
    readWord (l.foldl (fun m n => storeWords m (addr n) (word n)) m) (wordAddr a x) = readWord m (wordAddr a x) :=
  readWord_foldl_untouched fun n hn m => readWord_storeWords_ne hlegal ha (hmem n hn)
    (fun e => hnot (e ▸ List.mem_map_of_mem hn)) hx (hlen n hn) m

/-- Nodes stored one after the other read back. -/
theorem readWord_storeNodes (hlegal : addressesLegal words as = true) (hmem : ∀ n ∈ l, addr n ∈ as)
    (hlen : ∀ n ∈ l, (word n).length ≤ words) (hnodup : (l.map addr).Nodup) (hn : n ∈ l) (hj : j < (word n).length)
    (hm : Memory.wf m = true) :
    readWord (l.foldl (fun m n => storeWords m (addr n) (word n)) m) (wordAddr (addr n) j) = imgWord (word n) j := by
  refine readWord_foldl_written hn (fun m n hm => storeWords_wf _ _ hm)
    (fun m hm => readWord_storeWords hlegal (hmem n hn) (hlen n hn) hj hm) (fun i hi hin m => ?_) hm
  have hne : addr n ≠ addr i := fun e => hin (List.inj_on_of_nodup_map hnodup hi hn e.symm)
  exact readWord_storeWords_ne hlegal (hmem n hn) (hmem i hi) hne (lt_of_lt_of_le hj (hlen n hn)) (hlen i hi) m

end Nodes

/-! ## Memory between the conversions (42_queue.md R200, R201) -/

section Dynamic

variable {k : Cfg} {kind : Kind} {v : Queue} {img : Word → List Word} {m : Memory} {a p : Word} {as : List Word}
  {n : QNode} {i j : Nat} {link : Word}

/-- The word of a full image is the one read for its register (30_encoding.md R101, R102). -/
theorem imgWord_fullImage (m : Memory) (a : Word) (hj : j < (kindRegs k kind).length) :
    imgWord (fullImage k m kind a) (kindRegs k kind)[j] = readWord m (wordAddr a j) := by
  have h := imgWord_expandImage_stored (k := k) (kind := kind) (m := updAll k kind) (j := j) (ctx := [])
    (ws := (List.range (nodeWords k kind)).map fun i => readWord m (wordAddr a i)) (by rwa [storedRegs_updAll])
  simp only [storedRegs_updAll] at h
  exact h.trans (imgWord_map_range _ hj)

theorem isImage_fullImage (k : Cfg) (m : Memory) (kind : Kind) (a : Word) : IsImage k kind (fullImage k m kind a) :=
  isImage_expandImage ..

theorem map_addr_presentNodes (img : Word → List Word) (p : Word) (as : List Word) :
    (presentNodes k kind img p as).map QNode.addr = as := by
  induction as generalizing p with
  | nil => rfl
  | cons a as ih => rw [presentNodes_cons, List.map_cons, ih]

theorem present_of_mem_presentNodes (h : n ∈ presentNodes k kind img p as) :
    ∃ p', n.present = presentMask k kind (img p') (img n.addr) := by
  induction as generalizing p with
  | nil => simp at h
  | cons a as ih =>
    rw [presentNodes_cons, List.mem_cons] at h
    rcases h with rfl | h
    · exact ⟨p, rfl⟩
    · exact ih h

/-- The memory holds a node as its mask stores it, with a link word. -/
def HoldsNode (k : Cfg) (kind : Kind) (m : Memory) (n : QNode) (img : List Word) (link : Word) : Prop :=
  ∀ j < (storedRegs k kind n.present).length,
    readWord m (wordAddr n.addr j) = imgWord (storedWords k kind n.present img link) j

/-- The words of a held node, read one after the other. -/
theorem HoldsNode.reads {img : List Word} (h : HoldsNode k kind m n img link) :
    (wordAddrs n.addr (storedRegs k kind n.present).length).map (readWord m) =
      storedWords k kind n.present img link := by
  refine List.ext_getElem (by simp [storedWords_length, wordAddrs_length]) fun j hj _ => ?_
  have hj' : j < (storedRegs k kind n.present).length := by simpa [wordAddrs_length] using hj
  simp only [wordAddrs, List.getElem_map, List.getElem_range]
  exact (h j hj').trans (by simp [imgWord, storedWords_length, hj'])

theorem relinkedDynamic_wf (hm : Memory.wf m = true) : Memory.wf (relinkedDynamic k v i m) = true := by
  unfold relinkedDynamic
  split
  · exact writeWord_wf m _ _ hm
  · exact hm

theorem getElem?_queueAddrs (hn : v.nodes[i]? = some n) : (queueAddrs v)[i]? = some n.addr := by
  simp [queueAddrs, hn]

/-- Rewriting the link word of a node leaves every other word of every node. -/
theorem readWord_relinkedDynamic_ne (hlegal : addressesLegal (nodeWords k v.kind) (queueAddrs v) = true)
    (hpos : ∀ b ∈ v.nodes, 0 < (storedRegs k v.kind b.present).length) (hn : v.nodes[i]? = some n)
    (hj : j < nodeWords k v.kind) {i' : Nat} (hne : i ≠ i' ∨ j + 1 ≠ (storedRegs k v.kind n.present).length)
    (m : Memory) : readWord (relinkedDynamic k v i' m) (wordAddr n.addr j) = readWord m (wordAddr n.addr j) := by
  unfold relinkedDynamic
  cases hb : v.nodes[i']? with
  | none => rfl
  | some b =>
    have hb0 := hpos b (List.mem_of_getElem? hb)
    have hlast : maskCount k v.kind b.present - 1 < nodeWords k v.kind :=
      lt_of_lt_of_le (Nat.sub_lt hb0 one_pos) (storedRegs_length_le k v.kind b.present)
    refine readWord_writeWord_of_apart m _
      (apart_of_legal hlegal (getElem?_queueAddrs hn) (getElem?_queueAddrs hb) hj hlast ?_)
    by_cases hi : i = i'
    · obtain rfl : n = b := Option.some.inj (hn.symm.trans (hi ▸ hb))
      have hj1 := hne.resolve_left (not_not.mpr hi)
      refine .inr fun e => hj1 ?_
      rw [e, maskCount]
      exact Nat.sub_add_cancel hb0
    · exact .inl hi

/-- A node as the first pass leaves it: its mask has `U_CLLR`, and memory holds the kept registers. -/
structure FirstPass (k : Cfg) (kind : Kind) (img : Word → List Word) (m : Memory) (n : QNode) : Prop where
  cllr : n.present.getLsbD 7 = true
  regs : ∀ (j : Nat) (hj : j < (storedRegs k kind n.present).length), j + 1 ≠ (storedRegs k kind n.present).length →
    readWord m (wordAddr n.addr j) = imgWord (img n.addr) (storedRegs k kind n.present)[j]

theorem storedRegs_pos (hk : k.wf = true) (kind : Kind) {m : BitVec 8} (h : m.getLsbD 7 = true) :
    0 < (storedRegs k kind m).length :=
  List.length_pos_of_mem (mem_storedRegs.mpr ⟨mem_kindRegs.mpr ⟨by decide, updAll_cllr hk kind⟩, h⟩)

/-- The second pass completes every node with its link word (R201). -/
theorem holdsNode_relinkDynamic (hk : k.wf = true)
    (hlegal : addressesLegal (nodeWords k v.kind) (queueAddrs v) = true)
    (himg : ∀ a, (img a).length = 8) (hfirst : ∀ n ∈ v.nodes, FirstPass k v.kind img m n) (hm : Memory.wf m = true)
    (hn : v.nodes[i]? = some n) :
    HoldsNode k v.kind (relinkDynamic k v m) n (img n.addr) (dynamicLinkWord k v i) := by
  intro j hj
  have hmem := List.mem_of_getElem? hn
  have hpos : ∀ b ∈ v.nodes, 0 < (storedRegs k v.kind b.present).length := fun b hb =>
    storedRegs_pos hk v.kind (hfirst b hb).cllr
  have hjw := lt_of_lt_of_le hj (storedRegs_length_le k v.kind n.present)
  have hseven := storedRegs_eq_seven_iff hk (hfirst n hmem).cllr hj
  rw [relinkDynamic_eq, imgWord_storedWords (himg _) hj, imgWord_set (himg _)]
  by_cases hlast : j + 1 = (storedRegs k v.kind n.present).length
  · rw [if_pos (hseven.mpr hlast)]
    have hrange := List.mem_range.mpr (List.getElem?_eq_some_iff.mp hn).1
    refine readWord_foldl_written hrange (fun m i hm => relinkedDynamic_wf hm) (fun m hm => ?_)
      (fun i' _ hi' m => readWord_relinkedDynamic_ne hlegal hpos hn hjw (.inl (Ne.symm hi')) m) hm
    have haddr : wordAddr n.addr j = storedLinkAddr k v.kind n := by
      rw [storedLinkAddr, maskCount, ← storedRegs, ← hlast, Nat.add_sub_cancel]
    rw [relinkedDynamic, hn, haddr]
    exact readWord_writeWord_same m _ _ hm
  · rw [if_neg fun e => hlast (hseven.mp e), ← (hfirst n hmem).regs j hj hlast]
    exact readWord_foldl_untouched fun i' _ m => readWord_relinkedDynamic_ne hlegal hpos hn hjw (.inr hlast) m

/-- The stored words of a compacted node before its padding (R200). -/
theorem imgWord_compactWords (m : BitVec 8) (img : List Word) (hj : j < (storedRegs k kind m).length) :
    imgWord (compactWords k kind m img) j =
      imgWord (storedWords k kind m img (mkLink k.layout m (imgWord img 7))) j := by
  rw [compactWords, imgWord, List.getD_append _ _ _ _ (by rwa [storedWords_length])]
  rfl

/-- The first pass leaves every node stored by its mask: the head in full, the others compacted (R196, R197, R200). -/
theorem firstPass_compactNodes (hk : k.wf = true) (hlegal : addressesLegal (nodeWords k kind) (a :: as) = true)
    (hm : Memory.wf m = true)
    (hn : n ∈ (⟨a, updAll k kind⟩ : QNode) :: presentNodes k kind (fullImage k m kind) a as) :
    FirstPass k kind (fullImage k m kind)
      (compactNodes k kind (fullImage k m kind) (presentNodes k kind (fullImage k m kind) a as) m) n := by
  have haddrs := map_addr_presentNodes (k := k) (kind := kind) (fullImage k m kind) a as
  have hnodup := nodup_of_legal (nodeWords_pos hk kind) hlegal
  have hmem : ∀ n ∈ presentNodes k kind (fullImage k m kind) a as, n.addr ∈ a :: as := fun n hn => by
    rw [← haddrs]
    exact List.mem_cons_of_mem _ (List.mem_map_of_mem hn)
  have hlen : ∀ n ∈ presentNodes k kind (fullImage k m kind) a as,
      (compactWords k kind n.present (fullImage k m kind n.addr)).length ≤ nodeWords k kind :=
    fun n _ => (compactWords_length ..).le
  rcases List.mem_cons.mp hn with rfl | hn
  · refine ⟨updAll_cllr hk kind, fun j hj _ => ?_⟩
    rw [storedRegs_updAll] at hj
    simp only [storedRegs_updAll, imgWord_fullImage m a hj]
    exact readWord_storeNodes_ne hlegal hmem hlen (List.mem_cons_self ..)
      (by rw [haddrs]; exact (List.nodup_cons.mp hnodup).1) hj
  · obtain ⟨p', hpresent⟩ := present_of_mem_presentNodes hn
    have hbit : n.present.getLsbD 7 = true := hpresent ▸ presentMask_cllr hk
    refine ⟨hbit, fun j hj hlast => ?_⟩
    have himg := (isImage_fullImage k m kind n.addr).length
    have hread := readWord_storeNodes hlegal hmem hlen (by rw [haddrs]; exact (List.nodup_cons.mp hnodup).2) hn
      (j := j) (by rw [compactWords_length]; exact lt_of_lt_of_le hj (storedRegs_length_le ..)) hm
    rw [imgWord_compactWords _ _ hj, imgWord_storedWords himg hj, imgWord_set himg,
      if_neg fun e => hlast ((storedRegs_eq_seven_iff hk hbit hj).mp e)] at hread
    exact hread

theorem compactNodes_wf (ns : List QNode) (hm : Memory.wf m = true) : Memory.wf (compactNodes k kind img ns m) = true :=
  foldl_wf (fun _ _ hm => storeWords_wf _ _ hm) hm

theorem relinkDynamic_wf (hm : Memory.wf m = true) : Memory.wf (relinkDynamic k v m) = true := by
  rw [relinkDynamic_eq]
  exact foldl_wf (fun _ _ hm => relinkedDynamic_wf hm) hm

end Dynamic

/-! ## The walk back (42_queue.md R203) -/

section Expand

variable {k : Cfg} {v : Queue} {img : Word → List Word} {m : Memory} {a p : Word} {as : List Word} {n : QNode} {i : Nat}

/-- An image that is the original but for its link word. -/
def SameRegs (img : Word → List Word) (a : Word) (img' : List Word) : Prop := ∃ link, img' = (img a).set 7 link

/-- The head reads back in full (R196). -/
theorem fullImage_of_holds {kind : Kind} {link : Word} (hk : k.wf = true) (himg : IsImage k kind (img a))
    (h : HoldsNode k kind m ⟨a, updAll k kind⟩ (img a) link) : fullImage k m kind a = (img a).set 7 link := by
  have hreads := h.reads
  rw [storedRegs_updAll] at hreads
  rw [← imageOf_wordAddrs, nodeWords, hreads, imageOf]
  exact expandImage_storedWords hk himg fun i hi hbit => by simp [(mem_kindRegs.mp hi).2] at hbit

/-- Every node behind node `i` is expanded to its image, with the link word that the second pass gave it, and every mask
read on the way has `U_CLLR` (R203, R205). -/
theorem expanded_sameRegs (hk : k.wf = true) (himg : ∀ a, IsImage k v.kind (img a))
    (hholds : ∀ (i : Nat) (n : QNode), v.nodes[i]? = some n →
      HoldsNode k v.kind m n (img n.addr) (dynamicLinkWord k v i))
    (hnodes : v.nodes.drop (i + 1) = presentNodes k v.kind img p as) :
    List.Forall₂ (SameRegs img) as (expanded k m v.kind ((img p).set 7 (dynamicLinkWord k v i)) as) ∧
      ∀ img' ∈ ((img p).set 7 (dynamicLinkWord k v i) ::
        expanded k m v.kind ((img p).set 7 (dynamicLinkWord k v i)) as).dropLast, KeepsLink k img' := by
  induction as generalizing p i with
  | nil => exact ⟨.nil, by simp [expanded]⟩
  | cons b bs ih =>
    have hnext : v.nodes[i + 1]? = some ⟨b, presentMask k v.kind (img p) (img b)⟩ := by
      have h := congrArg (·[0]?) hnodes
      simpa using h
    have hrest : v.nodes.drop (i + 1 + 1) = presentNodes k v.kind img b bs := by
      rw [← List.drop_drop, hnodes]
      rfl
    have hmask : nextMask k ((img p).set 7 (dynamicLinkWord k v i)) = presentMask k v.kind (img p) (img b) := by
      rw [nextMask, imgWord_set (himg p).length, if_pos rfl, dynamicLinkWord, hnext]
      exact linkUpd_mkLink (Cfg.wf_layout hk) _ _
    have himage : nextImage k m v.kind ((img p).set 7 (dynamicLinkWord k v i)) b =
        (img b).set 7 (dynamicLinkWord k v (i + 1)) := by
      rw [nextImage, hmask, (hholds (i + 1) _ hnext).reads]
      refine expandImage_storedWords hk (himg b) fun x hx hbit => ?_
      obtain ⟨heq, hne⟩ := imgWord_of_not_present hx hbit
      rw [imgWord_set (himg p).length, if_neg hne]
      exact ⟨heq.symm, hne⟩
    obtain ⟨hregs, hmasks⟩ := ih hrest
    rw [expanded_cons, himage, List.dropLast_cons_of_ne_nil (List.cons_ne_nil _ _), List.forall_mem_cons]
    refine ⟨.cons ⟨_, rfl⟩ hregs, ?_, hmasks⟩
    rw [KeepsLink, hmask]
    exact presentMask_cllr hk

end Expand

/-! ## Memory after both conversions (42_queue.md R192, R203, R204) -/

section Static

variable {k : Cfg} {v : Queue} {img : Word → List Word} {m : Memory} {P : Nat → Prop} {imgs : List (List Word)}
  {a : Word} {j : Nat}

/-- Relinking nodes one after the other makes their link words right (R192). -/
theorem LinksHold.foldl_relinked (hk : k.wf = true) (hm : Memory.wf m = true)
    (hlegal : addressesLegal (nodeWords k v.kind) (queueAddrs v) = true) (h : LinksHold k v P m) (l : List Nat) :
    LinksHold k v (fun i => i ∈ l ∨ P i) (l.foldl (fun m i => relinked k v i m) m) := by
  induction l generalizing m P with
  | nil => exact h.mono fun _ _ hi => hi.resolve_left List.not_mem_nil
  | cons n l ih =>
    refine (ih (relinked_wf hm) (h.relinked hk hm hlegal n)).mono fun i _ hi => ?_
    rw [List.mem_cons] at hi
    tauto

/-- Relinking every node makes every link word right. -/
theorem linksHold_relinked_all (hk : k.wf = true) (hm : Memory.wf m = true)
    (hlegal : addressesLegal (nodeWords k v.kind) (queueAddrs v) = true) :
    LinksHold k v (fun _ => True) ((List.range v.nodes.length).foldl (fun m i => relinked k v i m) m) :=
  (LinksHold.foldl_relinked hk hm hlegal (P := fun _ => False) (fun _ _ h => h.elim) _).mono fun _ hi _ =>
    .inl (List.mem_range.mpr (queueAddrs_length v ▸ hi))

/-- Relinking touches no word before a link word. -/
theorem readWord_foldl_relinked (hk : k.wf = true)
    (hlegal : addressesLegal (nodeWords k v.kind) (queueAddrs v) = true) (ha : a ∈ queueAddrs v)
    (hj : j < nodeWords k v.kind - 1) (l : List Nat) (m : Memory) :
    readWord (l.foldl (fun m i => relinked k v i m) m) (wordAddr a j) = readWord m (wordAddr a j) := by
  have hlast : nodeWords k v.kind - 1 < nodeWords k v.kind := Nat.sub_lt (nodeWords_pos hk v.kind) one_pos
  refine readWord_foldl_untouched fun i _ m => ?_
  unfold relinked
  cases hb : (queueAddrs v)[i]? with
  | none => rfl
  | some b =>
    exact readWord_writeWord_of_apart m _
      (apart_of_mem hlegal ha (List.mem_of_getElem? hb) (by omega) hlast (.inr (by omega)))

/-- A stored register of an image that is the original but for its link word (R203). -/
theorem imgWord_imageRegs (hk : k.wf = true) {kind : Kind} {img' : List Word} (himg : (img a).length = 8)
    (h : SameRegs img a img') (hj : j < nodeWords k kind - 1) :
    imgWord (imageRegs k kind img') j = imgWord (img a) ((kindRegs k kind)[j]'(by rw [← nodeWords]; omega)) := by
  obtain ⟨link, rfl⟩ := h
  have hlt : j < (kindRegs k kind).length := by rw [← nodeWords]; omega
  have hseven : (kindRegs k kind)[j] ≠ 7 := by
    have h := storedRegs_eq_seven_iff hk (updAll_cllr hk kind) (j := j) (kind := kind) (by rwa [storedRegs_updAll])
    simp only [storedRegs_updAll] at h
    intro e
    have := h.mp e
    rw [← nodeWords] at this
    omega
  rw [imageRegs, imgWord_map _ _ (by rw [List.length_dropLast, ← nodeWords]; exact hj), List.getElem_dropLast,
    imgWord_set himg, if_neg hseven]

/-- The registers of every node are stored as they were (R203, R204). -/
theorem readWord_storeImages (hk : k.wf = true) (hm : Memory.wf m = true) {kind : Kind} {as : List Word}
    (hlegal : addressesLegal (nodeWords k kind) as = true) (himg : ∀ a, (img a).length = 8)
    (hsame : List.Forall₂ (SameRegs img) as imgs) (ha : a ∈ as) (hj : j < nodeWords k kind - 1) :
    readWord ((as.zip imgs).foldl (fun m p => storeWords m p.1 (imageRegs k kind p.2)) m) (wordAddr a j) =
      imgWord (img a) ((kindRegs k kind)[j]'(by rw [← nodeWords]; omega)) := by
  have hlen : as.length = imgs.length := hsame.length_eq
  have hfst : (as.zip imgs).map Prod.fst = as := List.map_fst_zip hlen.le
  have hregs : ∀ p ∈ as.zip imgs, (imageRegs k kind p.2).length ≤ nodeWords k kind := fun p _ => by
    rw [imageRegs_length]; omega
  obtain ⟨p, hp, rfl⟩ : ∃ p ∈ as.zip imgs, p.1 = a := by
    rw [← hfst] at ha
    exact List.mem_map.mp ha
  have hp' : SameRegs img p.1 p.2 := (List.forall₂_iff_zip.mp hsame).2 hp
  have hread := readWord_storeNodes (addr := Prod.fst) (word := fun p : Word × List Word => imageRegs k kind p.2) hlegal
    (fun p hp => (List.of_mem_zip hp).1) hregs (by rw [hfst]; exact nodup_of_legal (nodeWords_pos hk kind) hlegal) hp
    (j := j) (by rw [imageRegs_length]; exact hj) hm
  rw [imgWord_imageRegs hk (himg _) hp' hj] at hread
  exact hread

end Static

/-! ## Both conversions -/

section Queue

variable {s : State} {q : Word} {v : Queue}

/-- The dynamic record that `convert_to_dynamic` answers. -/
def dynamicQueue (s : State) (v : Queue) : Queue := { v with format := .dynamic, nodes := dynamicNodes s.cfg s.mem v }

/-- The memory behind `convert_to_dynamic`. -/
def dynamicMemory (s : State) (v : Queue) : Memory :=
  relinkDynamic s.cfg (dynamicQueue s v) (compacted s.cfg s.mem v)

theorem queueAddrs_dynamicQueue (s : State) (v : Queue) : queueAddrs (dynamicQueue s v) = queueAddrs v := by
  cases h : queueAddrs v with
  | nil => rw [queueAddrs, dynamicQueue, dynamicNodes_nil _ _ h, List.map_nil]
  | cons a as =>
    rw [queueAddrs, dynamicQueue, dynamicNodes_eq _ _ h, List.map_cons, map_addr_presentNodes]

/-- Every node after `convert_to_dynamic`: its kept registers and its link word (R197 to R201). -/
theorem holdsNode_dynamicMemory (hk : s.cfg.wf = true) (hm : Memory.wf s.mem = true)
    (hlegal : nodesLegal s v.kind (queueAddrs v) = true) (i : Nat) (n : QNode)
    (hn : (dynamicQueue s v).nodes[i]? = some n) :
    HoldsNode s.cfg v.kind (dynamicMemory s v) n (fullImage s.cfg s.mem v.kind n.addr)
      (dynamicLinkWord s.cfg (dynamicQueue s v) i) := by
  have haddrs := addressesLegal_of_nodesLegal hlegal
  refine holdsNode_relinkDynamic (v := dynamicQueue s v) hk (by rwa [queueAddrs_dynamicQueue])
    (fun a => (isImage_fullImage ..).length) (fun b hb => ?_) (compactNodes_wf _ hm) hn
  cases h : queueAddrs v with
  | nil => simp [dynamicQueue, dynamicNodes_nil _ _ h] at hb
  | cons a as =>
    rw [h] at haddrs
    rw [dynamicQueue, dynamicNodes_eq _ _ h] at hb
    rw [compacted_eq, dynamicNodes_eq _ _ h]
    exact firstPass_compactNodes hk haddrs hm hb

/-- The record that `convert_to_static` answers for the dynamic one. -/
def staticQueue (s : State) (v : Queue) : Queue :=
  { dynamicQueue s v with format := .static, nodes := fullNodes s.cfg v.kind (queueAddrs v) }

theorem queueAddrs_staticQueue (s : State) (v : Queue) : queueAddrs (staticQueue s v) = queueAddrs v :=
  queueAddrs_fullNodes ..

/-- The memory behind both conversions, for the images of the walk back. -/
def staticMemory (s : State) (v : Queue) (imgs : List (List Word)) : Memory :=
  (List.range (dynamicQueue s v).nodes.length).foldl (fun m i => relinked s.cfg (dynamicQueue s v) i m)
    (((queueAddrs v).zip imgs).foldl (fun m p => storeWords m p.1 (imageRegs s.cfg v.kind p.2)) (dynamicMemory s v))

theorem nodesLegal_converted (s : State) (q : Word) (v : Queue) (m : Memory) (kind : Kind) (as : List Word) :
    nodesLegal (converted s q v m) kind as = nodesLegal s kind as := by
  unfold nodesLegal tagAllows
  rw [converted_cfg, converted_nodeKinds]

/-- `convert_to_static` behind `convert_to_dynamic`: the images of the walk are the original ones but for their link
words. -/
theorem convertToStatic_converted (hr : QueueReady s v) (hk : s.cfg.wf = true) (hm : Memory.wf s.mem = true)
    (hnodes : v.nodes ≠ []) (hlegal : nodesLegal s v.kind (queueAddrs v) = true) :
    ∃ imgs, List.Forall₂ (SameRegs (fullImage s.cfg s.mem v.kind)) (queueAddrs v) imgs ∧
      exec (.convertToStatic q) (converted s q (dynamicQueue s v) (dynamicMemory s v)) =
        .next (converted (converted s q (dynamicQueue s v) (dynamicMemory s v)) q (staticQueue s v)
          (staticMemory s v imgs)) := by
  obtain ⟨a, as, haddrs⟩ := List.exists_cons_of_ne_nil (l := queueAddrs v) (by simpa [queueAddrs] using hnodes)
  have himg := isImage_fullImage s.cfg s.mem v.kind
  have hholds := holdsNode_dynamicMemory hk hm hlegal
  have hdyn : (dynamicQueue s v).nodes = ⟨a, updAll s.cfg v.kind⟩ ::
      presentNodes s.cfg v.kind (fullImage s.cfg s.mem v.kind) a as := dynamicNodes_eq s.cfg s.mem haddrs
  have hdynAddrs := queueAddrs_dynamicQueue s v
  have hhead := fullImage_of_holds hk (himg a) (hholds 0 ⟨a, updAll s.cfg v.kind⟩ (by rw [hdyn]; rfl))
  obtain ⟨hsame, hmasks⟩ := expanded_sameRegs (v := dynamicQueue s v) (i := 0) (p := a) (as := as) hk himg hholds
    (by rw [hdyn]; rfl)
  have hready : QueueReady (converted s q (dynamicQueue s v) (dynamicMemory s v)) (dynamicQueue s v) := by
    rw [QueueReady, converted_pending, converted_quantum, ← queueAddrs_length, hdynAddrs, queueAddrs_length]
    exact hr
  have hstatic := convertToStatic_result hready (converted_queue ..) (hdynAddrs.trans haddrs)
    (by rw [nodesLegal_converted, hdynAddrs]; exact hlegal) rfl
  simp only [converted_cfg, converted_mem] at hstatic
  rw [← hhead] at hsame hmasks
  have hall := List.Forall₂.cons (R := SameRegs (fullImage s.cfg s.mem v.kind)) ⟨_, hhead⟩ hsame
  rw [← haddrs] at hall
  refine ⟨_, hall, ?_⟩
  rw [hstatic hmasks, hdynAddrs]
  rfl

end Queue

/-- Settles O60: memory between the conversions holds every node by its mask, the walk back expands each to its image
but for the link word, and the last writes store the registers and every static link word. -/
theorem conversionRoundTrip : Obligations.ConversionRoundTrip := by
  unfold Obligations.ConversionRoundTrip
  intro s q v hr hk hm hq hnodes hformat hlegal
  obtain ⟨imgs, hsame, hstatic⟩ := convertToStatic_converted (q := q) hr hk hm hnodes hlegal
  have haddrs := addressesLegal_of_nodesLegal hlegal
  have hdyn : addressesLegal (nodeWords s.cfg (dynamicQueue s v).kind) (queueAddrs (dynamicQueue s v)) = true := by
    rwa [queueAddrs_dynamicQueue]
  have hdynMem : Memory.wf (dynamicMemory s v) = true := relinkDynamic_wf (compactNodes_wf _ hm)
  have hstored := foldl_wf (l := (queueAddrs v).zip imgs)
    (f := fun m p => storeWords m p.1 (imageRegs s.cfg v.kind p.2)) (fun _ _ hm => storeWords_wf _ _ hm) hdynMem
  refine ⟨_, _, staticQueue s v, convertToDynamic_result hr hq hnodes hlegal hformat, hstatic, converted_queue .., rfl,
    rfl, rfl, queueAddrs_staticQueue s v, ?links, ?words⟩
  case links =>
    have hsameAddrs : queueAddrs (staticQueue s v) = queueAddrs (dynamicQueue s v) :=
      (queueAddrs_staticQueue s v).trans (queueAddrs_dynamicQueue s v).symm
    rw [linksOk_iff, converted_mem, converted_cfg, converted_cfg]
    exact (linksHold_relinked_all hk hstored hdyn).moved rfl id (fun _ _ => trivial)
      (fun _ _ => by rw [hsameAddrs]; rfl) (fun _ _ => by rw [hsameAddrs]; rfl) fun _ _ _ => .inl rfl
  case words =>
    intro a ha j hj
    have hlt : j < (kindRegs s.cfg v.kind).length := by rw [← nodeWords]; omega
    rw [converted_mem]
    calc readWord (staticMemory s v imgs) (wordAddr a j)
        = imgWord (fullImage s.cfg s.mem v.kind a) (kindRegs s.cfg v.kind)[j] :=
          (readWord_foldl_relinked hk hdyn (by rwa [queueAddrs_dynamicQueue]) hj _ _).trans
            (readWord_storeImages hk hdynMem haddrs (fun a => (isImage_fullImage ..).length) hsame ha hj)
      _ = readWord s.mem (wordAddr a j) := imgWord_fullImage s.mem a hlt

end Sys2Proof.RoundTrip
end

section
/-! The configuration commands (43_channel_config.md): `init` and `deinit` (O11), the configurations and the setters
(O12 to O16), the getters of registers and of the handle (O17, O18), and that a getter returns what its setter was given
(O19). -/

namespace Sys2Proof.Configuration

open Sys2Proof.Machine Sys2Proof.Claims Sys2Proof.Scope Sys2Proof.LinkWord Sys2Proof.RegisterFile Sys2Proof.NodeCodec
  Sys2Proof.QueueEdits

/-! ## Operations that change one channel (20_memory.md R86) -/

/-- On channel `ch` with EN as in `before`, under the parameters `k`, the operations change the channel by `f` and
nothing else, and leave EN as in `after`; no operation takes more than two accesses. -/
structure Changes (k : Cfg) (ch : ChId) (before after : Bool) (ops : List HostOp) (f : Channel → Channel) : Prop where
  runs : ∀ s : State, s.cfg = k → Has s ch → (s.chan ch.toNat).ccr.en = before →
    ∃ n ≤ 2 * ops.length, Runs n ops s (s.onChan ch.toNat f)
  en : ∀ c : Channel, c.ccr.en = before → (f c).ccr.en = after

section Changes

variable {k : Cfg} {ch : ChId} {a b d : Bool} {f g : Channel → Channel} {ops ops' : List HostOp} {op : HostOp}

theorem onChan_id (s : State) (i : Nat) : s.onChan i id = s := State.setChan_self s i

theorem Changes.nil : Changes k ch a a [] id where
  runs s _ _ _ := ⟨0, le_rfl, by rw [onChan_id]; exact .nil s⟩
  en _ h := h

theorem Changes.append (h : Changes k ch a b ops f) (h' : Changes k ch b d ops' g) :
    Changes k ch a d (ops ++ ops') fun c => g (f c) where
  runs s hk hch hen := by
    have hch' : Has (s.onChan ch.toNat f) ch := by rwa [Has, State.onChan_length]
    have hen' : ((s.onChan ch.toNat f).chan ch.toNat).ccr.en = b := by
      rw [State.chan_onChan_same s _ f hch]; exact h.en _ hen
    obtain ⟨n, hn, hruns⟩ := h.runs s hk hch hen
    obtain ⟨m, hm, hruns'⟩ := h'.runs (s.onChan ch.toNat f) hk hch' hen'
    rw [State.onChan_onChan s _ f g hch] at hruns'
    exact ⟨n + m, by rw [List.length_append]; omega, hruns.append hruns'⟩
  en c hc := h'.en _ (h.en c hc)

theorem Changes.cons (h : Changes k ch a b [op] f) (h' : Changes k ch b d ops g) :
    Changes k ch a d (op :: ops) fun c => g (f c) := h.append h'

/-- The same change, said another way. -/
theorem Changes.congr (h : Changes k ch a b ops f) (hfg : ∀ c, f c = g c) : Changes k ch a b ops g :=
  funext hfg ▸ h

/-- One access that updates the channel. -/
theorem Changes.single (hop : ∀ s : State, s.cfg = k → runOp op s = .go [] (s.onChan ch.toNat f))
    (hen : ∀ c : Channel, c.ccr.en = a → (f c).ccr.en = b) : Changes k ch a b [op] f where
  runs s hk _ _ := ⟨1, by simp, .single (hop s hk)⟩
  en := hen

/-- One access to the handle. -/
theorem Changes.handle {u : Handle → Handle} (hop : ∀ s, runOp op s = .go [] (s.onChan ch.toNat (onHandle u))) :
    Changes k ch a a [op] (onHandle u) := .single (fun s _ => hop s) fun _ h => h

theorem writeReg_en {r : Reg} (hr : r ≠ .ccr) (w : Word) (c : Channel) : (writeReg k r w c).ccr.en = c.ccr.en := by
  by_cases hlink : isLinkReg r = true
  · rw [writeReg_link hlink, linkWrite_ccr]
  · cases r
    case ccr => exact absurd rfl hr
    case secAttr => rw [writeReg_secAttr]
    case csr | cfcr => rfl
    all_goals exact absurd rfl hlink

/-- A write of a register of a disabled channel. -/
theorem Changes.regWrite {r : Reg} (hr : r ≠ .ccr) (w : Word) :
    Changes k ch false false [.regWrite ch.toNat r w] (writeReg k r w) where
  runs s hk _ hen := ⟨1, by simp, .single (hk ▸ runOp_regWrite _ r w s hen)⟩
  en c hc := (writeReg_en hr w c).trans hc

/-- A register read, its named fields replaced, and written (40_register_file.md R142, R145). -/
def fieldsWritten (k : Cfg) (r : Reg) (fs : List (Fld × Word)) (c : Channel) : Channel :=
  writeReg k r (insFields k.layout fs (readReg k c r)) c

theorem Changes.rmw {r : Reg} (hr : r ≠ .ccr) (fs : List (Fld × Word)) :
    Changes k ch false false [.rmw ch.toNat r fs] (fieldsWritten k r fs) where
  runs s hk _ hen := by
    subst hk
    exact ⟨2, by simp, .op (runOp_rmw _ r fs s) (.single (runOp_regWrite _ r _ s hen))⟩
  en c hc := (writeReg_en hr _ c).trans hc

/-- CTR1 with named fields replaced. -/
theorem Changes.ctr1 (fs : List (Fld × Word)) : Changes k ch false false [.rmw ch.toNat .ctr1 fs]
    fun c => { c with ctr1 := insFields k.layout fs c.ctr1 } := .rmw (by decide) fs

/-- CTR2 with named fields replaced. -/
theorem Changes.ctr2 (fs : List (Fld × Word)) : Changes k ch false false [.rmw ch.toNat .ctr2 fs]
    fun c => { c with ctr2 := insFields k.layout fs c.ctr2 } := .rmw (by decide) fs

/-- A priority class that the field can hold. -/
theorem Changes.setPrio {p : Word} (hp : priorityLegal k p = true) :
    Changes k ch a a [.setPrio ch.toNat p] fun c => { c with ccr := { c.ccr with prio := p } } := by
  simp only [priorityLegal, fitsField, Bool.and_eq_true, decide_eq_true_eq] at hp
  have hfits : p &&& Fld.prio.ones k.layout = p := Fld.and_ones_of_lt .prio k.layout p hp.2
  refine .congr (f := chSetPrio k.layout p) (.single (fun _ hk => hk ▸ rfl) fun _ h => h) fun c => ?_
  rw [chSetPrio, hfits]

end Changes

/-! ## The frames of the commands (43_channel_config.md R223, R228) -/

section Frames

variable {s t : State} {ch : ChId} {ops : List HostOp} {f : Channel → Channel} {n : Nat}

theorem runs_guarded {gs : List (Nat → HostOp)} (hgs : ∀ g ∈ gs, Passes s g) (h : Runs n ops s t) :
    Runs (n + gs.length) (guarded gs ops) s t := by
  induction gs with
  | nil => exact h
  | cons g gs ih =>
    obtain ⟨hg, hgs⟩ := List.forall_mem_cons.mp hgs
    rw [guarded_cons, List.length_cons, ← Nat.add_assoc, Nat.add_comm _ 1]
    exact (Runs.single (hg _)).append (ih hgs)

/-- A command whose operands are legal and whose tests pass, when its operations fit in the turn. -/
theorem command_runs {legal : Bool} {gs : List (Nat → HostOp)} (hr : Ready s) (hlegal : legal = true)
    (hgs : ∀ g ∈ gs, Passes s g) (h : Runs n ops s t) (hn : n + gs.length ≤ 64) (hisr : t.isr = s.isr)
    (htodo : t.app.todo = s.app.todo) : command legal gs ops s = .next t := by
  obtain ⟨hpending, hquantum⟩ := hr
  rw [command_run hlegal]
  exact (runs_guarded hgs h).runHost hpending (hn.trans hquantum) hisr htodo

theorem passes_stateIn {allowed : List Life} (h : allowed.contains (life s ch) = true) :
    ∀ g ∈ [stateIn ch allowed], Passes s g := List.forall_mem_singleton.mpr (passes_require h)

/-- Operations that change the channel, then `Ok`. -/
theorem Changes.runs_ok {a b : Bool} (h : Changes s.cfg ch a b ops f) (hch : Has s ch)
    (hen : (s.chan ch.toNat).ccr.en = a) : ∃ n ≤ 2 * ops.length + 1,
      Runs n (ops ++ [.ret (plainReply .ok)]) s ((s.onChan ch.toNat f).answer (plainReply .ok)) := by
  obtain ⟨n, hn, hruns⟩ := h.runs s rfl hch hen
  exact ⟨n + 1, by omega, hruns.append (.single (runOp_ret ..))⟩

/-- A command that changes its channel and answers `Ok`. -/
theorem command_changes {legal a b : Bool} {gs : List (Nat → HostOp)} (hr : Ready s) (hch : Has s ch)
    (hlegal : legal = true) (hgs : ∀ g ∈ gs, Passes s g) (hen : (s.chan ch.toNat).ccr.en = a)
    (h : Changes s.cfg ch a b ops f) (hlen : 2 * ops.length + gs.length < 64) :
    command legal gs (ops ++ [.ret (plainReply .ok)]) s = okAfter s ch f := by
  obtain ⟨n, hn, hruns⟩ := h.runs_ok hch hen
  exact command_runs hr hlegal hgs hruns (by omega) (by simp) (by simp)

theorem setterStates_life (h : life s ch = .init ∨ life s ch = .idle) : setterStates.contains (life s ch) = true := by
  rcases h with h | h <;> rw [h] <;> rfl

theorem initialised_life (h : life s ch ≠ .reset) : initialised.contains (life s ch) = true := by
  rw [initialised_contains, bne_iff_ne]
  exact h

/-- A setter with legal operands (R223). -/
theorem setter_changes {legal b : Bool} (hs : Settable s ch) (hlegal : legal = true)
    (h : Changes s.cfg ch false b ops f) (hlen : ops.length ≤ 30) : setter ch legal ops s = okAfter s ch f := by
  obtain ⟨hr, hch, hlife, hen⟩ := hs
  obtain ⟨n, hn, hruns⟩ := h.runs_ok hch hen
  have hidle : runOp (.idleOverRunning ch.toNat) s = .go [] s := by simp [runOp_idleOverRunning, hen]
  have hoperands : (s.hasChan ch.toNat && legal) = true := by simpa [State.hasChan, hlegal] using hch
  refine command_runs (n := 1 + n) hr hoperands (passes_stateIn (setterStates_life hlife)) ?_ ?_ (by simp) (by simp)
  · exact (Runs.single hidle).append hruns
  · rw [List.length_singleton]; omega

/-- A getter reads its registers one by one, then answers (R228). -/
theorem runs_collect (i : Nat) (g : Getter) (s : State) : ∀ (left : List Reg) (got : List Word),
    Runs (left.length + 2) [.collect i left got g] s (s.answer ⟨.ok, getterValue s.cfg.layout g
      (got ++ left.map (readReg s.cfg (s.chan i))) (s.chan i).h.blockSize⟩)
  | [], got => by
    rw [List.map_nil, List.append_nil]
    exact .op (runOp_collect_nil ..) (.single (runOp_ret ..))
  | r :: left, got => by
    have hrest := runs_collect i g s left (got ++ [readReg s.cfg (s.chan i) r])
    rw [List.append_assoc] at hrest
    exact .op (runOp_collect_cons ..) hrest

/-- What a getter answers for a channel. -/
def gotten (k : Cfg) (g : Getter) (c : Channel) : Value :=
  getterValue k.layout g ((getterRegs g).map (readReg k c)) c.h.blockSize

theorem getterRegs_length (g : Getter) : (getterRegs g).length ≤ 3 := by cases g <;> decide

/-- A getter of an initialised channel (R228). -/
theorem getter_answers {legal : Bool} (hg : Gettable s ch) (hlegal : legal = true) (g : Getter) :
    getter ch legal g s = answered s (gotten s.cfg g (s.chan ch.toNat)) := by
  obtain ⟨hr, hch, hlife⟩ := hg
  have hlen := getterRegs_length g
  have hoperands : (s.hasChan ch.toNat && legal) = true := by simpa [State.hasChan, hlegal] using hch
  refine command_runs hr hoperands (passes_stateIn (initialised_life hlife)) (runs_collect _ g s _ []) ?_ (by simp)
    (by simp)
  rw [List.length_singleton]; omega

end Frames

/-! ## The life cycle of the handle (43_channel_config.md R221, R222; 10_state.md R56) -/

section LifeCycle

variable {k : Cfg} {ch : ChId} {a : Bool}

/-- `H.LastError` exists only with its feature (10_state.md R40). -/
theorem chSetError_eq (on : Bool) (e : BitVec 4) :
    chSetError on e = onHandle fun h => { h with lastError := if on then e else h.lastError } := by
  cases on <;> rfl

/-- The handle with its fields, `H.State` apart, at their values of 10_state.md R56. -/
def defaulted (k : Cfg) (h : Handle) : Handle :=
  ⟨h.state, .direct, none, if k.features.errorCodes then 0 else h.lastError, 0, ⟨0, 0, 0, 0, 0⟩, 0⟩

theorem changes_setError (e : BitVec 4) : Changes k ch a a [.setError ch.toNat e]
    (onHandle fun h => { h with lastError := if k.features.errorCodes then e else h.lastError }) :=
  .congr (f := chSetError k.features.errorCodes e)
    (.single (fun _ hk => hk ▸ rfl) fun c h => by rw [chSetError_eq]; exact h)
    fun c => congrFun (chSetError_eq _ e) c

theorem changes_setState (l : Life) : Changes k ch a a [.setState ch.toNat l]
    (onHandle fun h => { h with state := l }) := .handle fun _ => rfl

theorem changes_setMode (m : Mode) : Changes k ch a a [.setMode ch.toNat m]
    (onHandle fun h => { h with mode := m }) := .handle fun _ => rfl

theorem changes_setHead (p : Option Word) : Changes k ch a a [.setHead ch.toNat p]
    (onHandle fun h => { h with head := p }) := .handle fun _ => rfl

theorem changes_setUserData (p : Word) : Changes k ch a a [.setUserData ch.toNat p]
    (onHandle fun h => { h with userData := p }) := .handle fun _ => rfl

theorem changes_setBlockSize (n : Word) : Changes k ch a a [.setBlockSize ch.toNat n]
    (onHandle fun h => { h with blockSize := n }) := .handle fun _ => rfl

theorem changes_setCallback (slot : Slot) (p : Word) : Changes k ch a a [.setCallback ch.toNat slot p]
    (onHandle fun h => { h with cb := setCallbackSlot slot p h.cb }) := .handle fun _ => rfl

/-- The five callback slots at the no-op default (10_state.md R42). -/
theorem changes_clearCallbacks : Changes k ch a a
    [.setCallback ch.toNat .half 0, .setCallback ch.toNat .complete 0, .setCallback ch.toNat .abort 0,
      .setCallback ch.toNat .suspend 0, .setCallback ch.toNat .error 0]
    (onHandle fun h => { h with cb := ⟨0, 0, 0, 0, 0⟩ }) := by
  have hslots := (changes_setCallback (k := k) (ch := ch) (a := a) .half 0).cons <|
    (changes_setCallback .complete 0).cons <| (changes_setCallback .abort 0).cons <|
    (changes_setCallback .suspend 0).cons (changes_setCallback .error 0)
  exact hslots.congr fun _ => by simp only [onHandle, setCallbackSlot]

theorem changes_handleDefaults : Changes k ch a a (handleDefaults ch.toNat) (onHandle (defaulted k)) := by
  have hfields := (changes_setMode (k := k) (ch := ch) (a := a) .direct).cons <| (changes_setHead none).cons <|
    (changes_setError 0).cons <| (changes_setUserData 0).cons <|
    changes_clearCallbacks.append (changes_setBlockSize 0)
  exact hfields.congr fun _ => by simp only [onHandle, defaulted]

/-- The end of `init` and of `deinit`: the handle at its defaults, then its state. -/
theorem changes_handle (l : Life) : Changes k ch a a (handleDefaults ch.toNat ++ [.setState ch.toNat l])
    (onHandle fun h => { defaulted k h with state := l }) :=
  .congr (changes_handleDefaults.append (changes_setState l)) fun _ => rfl

/-- The registers of `zeroRegisters` at 0 (R222), SecAttr where the build has it. -/
def zeroed (k : Cfg) (c : Channel) : Channel :=
  { c with
    ctr1 := 0, ctr2 := 0, cbr1 := 0, csar := 0, cdar := 0, cllr := 0, lba := 0
    ctr3 := if c.twoD then 0 else c.ctr3
    cbr2 := if c.twoD then 0 else c.cbr2
    ccr := { c.ccr with prio := 0 }
    secAttr := if k.features.security then ⟨false, false⟩ else c.secAttr }

theorem cbr1View_zero (L : Layout) (c : Channel) : cbr1View L c 0 = 0 := by
  unfold cbr1View
  split
  · rfl
  · exact BitVec.zero_and

theorem secAttrOf_zero (L : Layout) : secAttrOf L 0 = ⟨false, false⟩ := by
  simp [secAttrOf, Fld.test]

theorem changes_zero {r : Reg} (hr : r ≠ .ccr) {g : Channel → Channel} (h : ∀ c, writeReg k r 0 c = g c) :
    Changes k ch false false [.regWrite ch.toNat r 0] g := .congr (.regWrite hr 0) h

/-- `CCR.PRIO` returned to 0. -/
theorem changes_prio_zero : Changes k ch a a [.setPrio ch.toNat 0]
    fun c => { c with ccr := { c.ccr with prio := 0 } } :=
  .congr (f := chSetPrio k.layout 0) (.single (fun _ hk => hk ▸ rfl) fun _ h => h) fun c =>
    congrArg (fun p => { c with ccr := { c.ccr with prio := p } }) BitVec.zero_and

theorem changes_zeroRegisters : Changes k ch false false (zeroRegisters ch.toNat) (zeroed k) :=
  have hcbr1 (c : Channel) : writeReg k .cbr1 0 c = { c with cbr1 := 0 } :=
    congrArg (fun w => { c with cbr1 := w }) (cbr1View_zero k.layout c)
  have hsecAttr (c : Channel) : writeReg k .secAttr 0 c =
      { c with secAttr := if k.features.security then ⟨false, false⟩ else c.secAttr } := by
    rw [writeReg_secAttr, secAttrOf_zero]
  .congr
    (.cons (changes_zero (by decide) fun _ => rfl) <| .cons (changes_zero (by decide) fun _ => rfl) <|
      .cons (changes_zero (by decide) hcbr1) <| .cons (changes_zero (by decide) fun _ => rfl) <|
      .cons (changes_zero (by decide) fun _ => rfl) <|
      .cons (changes_zero (by decide) fun c => linkWrite_ctr3 k.layout c 0) <|
      .cons (changes_zero (by decide) fun c => linkWrite_cbr2 k.layout c 0) <|
      .cons (changes_zero (by decide) fun _ => rfl) <| .cons (changes_zero (by decide) fun _ => rfl) <|
      .cons changes_prio_zero <| .cons (changes_zero (by decide) hsecAttr) .nil)
    fun _ => rfl

/-- The channel after `deinit` (R222). -/
def deinitialised (k : Cfg) (c : Channel) : Channel :=
  { zeroed k c with
    ccr := ⟨false, false, FlagSet.empty, 0⟩
    csr := ⟨true, FlagSet.empty⟩
    hid := Hidden.zero
    h := { defaulted k c.h with state := .reset } }

/-- The operations of `deinit`: the reset of the channel first, so that its registers can be written. -/
theorem changes_deinit : Changes k ch a false
    ([.chReset ch.toNat, .ieWrite ch.toNat FlagSet.empty, .flagClear ch.toNat allFlags] ++ zeroRegisters ch.toNat
      ++ (handleDefaults ch.toNat ++ [.setState ch.toNat .reset])) (deinitialised k) := by
  have hreset : Changes k ch a false [.chReset ch.toNat] chReset := .single (fun _ _ => rfl) fun _ _ => rfl
  have hie : Changes k ch false false [.ieWrite ch.toNat FlagSet.empty] (chIeWrite FlagSet.empty) :=
    .single (fun _ _ => rfl) fun _ h => h
  have hflags : Changes k ch false false [.flagClear ch.toNat allFlags] (chFlagClear allFlags) :=
    .single (fun _ _ => rfl) fun _ h => h
  have hregs := (Changes.cons hreset (.cons hie hflags)).append changes_zeroRegisters
  exact .congr (hregs.append (changes_handle .reset)) fun _ => rfl

end LifeCycle

/-- Settles O11: a failing test is a violation (O20), `init` changes the handle only, and `deinit` first resets the
channel, then clears its registers and its handle. -/
theorem initDeinitResult : Obligations.InitDeinitResult := by
  unfold Obligations.InitDeinitResult
  intro ch s hr
  refine ⟨fun hno => ?absent, fun _ hlife => ?violation, fun hch hlife => ?init, fun hch => ?deinit⟩
  case absent =>
    have habsent : s.chans.length ≤ ch.toNat := not_lt.mp hno
    exact ⟨preconditionViolations s ch _ _ hr .init (.inl habsent),
      preconditionViolations s ch _ _ hr .deinit (.inl habsent)⟩
  case violation => exact preconditionViolations s ch _ _ hr .init (.inr (beq_eq_false_iff_ne.mpr hlife))
  case init =>
    have hallowed : [Life.reset].contains (life s ch) = true := by rw [hlife]; rfl
    exact command_changes (ops := handleDefaults ch.toNat ++ [.setState ch.toNat .init]) hr hch (decide_eq_true hch)
      (passes_stateIn hallowed) rfl (changes_handle .init) (by simp [handleDefaults])
  case deinit =>
    exact command_changes (gs := []) hr hch (decide_eq_true hch) nofun rfl changes_deinit
      (by simp [handleDefaults, zeroRegisters])

/-! ## The configurations (43_channel_config.md R224, R226) -/

section Setters

variable {k : Cfg} {s : State} {ch : ChId}

/-- The channel configured for a direct transfer (R224). -/
def configuredDirect (k : Cfg) (cfg : DirectConfig) (c : Channel) : Channel :=
  { c with
    ctr1 := insFields k.layout (widthIncFields cfg.srcWidth cfg.dstWidth cfg.srcInc cfg.dstInc) c.ctr1
    ctr2 := insFields k.layout (requestFields cfg.request cfg.direction) c.ctr2
    cllr := 0
    ccr := { c.ccr with prio := cfg.priority }
    h := { c.h with mode := .direct, head := none, state := .idle } }

theorem directConfig_priority {cfg : DirectConfig} (h : directConfigLegal k cfg = true) :
    priorityLegal k cfg.priority = true := by
  rw [directConfigLegal, Bool.and_eq_true] at h
  exact h.2

theorem exec_setConfigDirect (hs : Settable s ch) {cfg : DirectConfig} (h : directConfigLegal s.cfg cfg = true) :
    exec (.setConfigDirect ch cfg) s = okAfter s ch (configuredDirect s.cfg cfg) := by
  have hcllr : Changes s.cfg ch false false [.regWrite ch.toNat .cllr 0] fun c => { c with cllr := 0 } :=
    .regWrite (by decide) 0
  have hops := (Changes.ctr1 (widthIncFields cfg.srcWidth cfg.dstWidth cfg.srcInc cfg.dstInc)).cons <|
    (Changes.ctr2 (requestFields cfg.request cfg.direction)).cons <| hcllr.cons <|
    (Changes.setPrio (directConfig_priority h)).cons <| (changes_setMode .direct).cons <|
    (changes_setHead none).cons (changes_setState .idle)
  exact setter_changes hs h hops (by simp)

/-- Settles O12: the writes of each form, one after the other. -/
theorem setConfigResult : Obligations.SetConfigResult := by
  unfold Obligations.SetConfigResult
  intro ch s hs L
  refine ⟨fun cfg h => exec_setConfigDirect hs h, fun p hon hp => ?_⟩
  have hops := (Changes.setPrio (ch := ch) (a := false) hp).cons <|
    (changes_setMode .linkedListLinear).cons (changes_setState .idle)
  exact setter_changes hs (by rw [hon, hp]; rfl) hops (by simp)

/-! ## The setters of CTR1 and CTR2 (43_channel_config.md R229 to R242) -/

theorem setter_ctr1 {legal : Bool} (hs : Settable s ch) (hlegal : legal = true) (fs : List (Fld × Word)) :
    setter ch legal [.rmw ch.toNat .ctr1 fs] s =
      okAfter s ch fun c => { c with ctr1 := insFields s.cfg.layout fs c.ctr1 } :=
  setter_changes hs hlegal (.ctr1 fs) (by simp)

theorem setter_ctr2 {legal : Bool} (hs : Settable s ch) (hlegal : legal = true) (fs : List (Fld × Word)) :
    setter ch legal [.rmw ch.toNat .ctr2 fs] s =
      okAfter s ch fun c => { c with ctr2 := insFields s.cfg.layout fs c.ctr2 } :=
  setter_changes hs hlegal (.ctr2 fs) (by simp)

theorem exec_setPort (hs : Settable s ch) (a b : Port) : exec (.setPort ch a b) s =
    okAfter s ch fun c => { c with ctr1 := insFields s.cfg.layout (portFields a b) c.ctr1 } := setter_ctr1 hs rfl _

theorem exec_setBurst (hs : Settable s ch) {a b : Word} (ha : burstLegal a = true) (hb : burstLegal b = true) :
    exec (.setBurst ch a b) s =
      okAfter s ch fun c => { c with ctr1 := insFields s.cfg.layout (burstFields a b) c.ctr1 } :=
  setter_ctr1 hs (by rw [ha, hb]; rfl) _

theorem exec_setDataHandling (hs : Settable s ch) {d : DataHandling} (hd : dataHandlingLegal d = true) :
    exec (.setDataHandling ch d) s =
      okAfter s ch fun c => { c with ctr1 := insFields s.cfg.layout (dataHandlingFields d) c.ctr1 } :=
  setter_ctr1 hs hd _

theorem exec_setHwRequestMode (hs : Settable s ch) (m : HwMode) : exec (.setHwRequestMode ch m) s =
    okAfter s ch fun c => { c with ctr2 := insFields s.cfg.layout [(.blockReq, m.code)] c.ctr2 } :=
  setter_ctr2 hs rfl _

theorem exec_setTrigger (hs : Settable s ch) {x : Trigger} (hx : triggerLegal s.cfg.layout x = true) :
    exec (.setTrigger ch x) s =
      okAfter s ch fun c => { c with ctr2 := insFields s.cfg.layout (triggerFields x) c.ctr2 } :=
  setter_ctr2 hs hx _

theorem burstLegal_of_bounds {n : Word} (hlo : 1 ≤ n.toNat) (hhi : n.toNat ≤ 64) : burstLegal n = true := by
  simp [burstLegal, hlo, hhi]

theorem triggerLegal_of_fits {L : Layout} {x : Trigger} (hsource : x.source.toNat < 2 ^ L.trigSel.width)
    (hpolarity : x.polarity ≠ .reserved) : triggerLegal L x = true := by
  rw [triggerLegal, polarityLegal, bne_iff_ne.mpr hpolarity, Bool.and_true]
  exact decide_eq_true hsource

/-- Settles O13: each command replaces its fields of CTR1, a reset those of the defaults. -/
theorem ctr1SetterResult : Obligations.Ctr1SetterResult := by
  unfold Obligations.Ctr1SetterResult
  intro ch s hs L
  exact ⟨exec_setPort hs, setter_ctr1 hs rfl (portFields .port0 .port0),
    fun a b ha ha' hb hb' => exec_setBurst hs (burstLegal_of_bounds ha ha') (burstLegal_of_bounds hb hb'),
    setter_ctr1 hs rfl (burstFields 1 1), fun d hd => exec_setDataHandling hs (decide_eq_true hd),
    setter_ctr1 hs rfl (dataHandlingFields ⟨false, false, false, 0⟩)⟩

/-- Settles O14: each command replaces its fields of CTR2, a reset those of the defaults. -/
theorem ctr2SetterResult : Obligations.Ctr2SetterResult := by
  unfold Obligations.Ctr2SetterResult
  intro ch s hs L
  refine ⟨fun m => ?mode, setter_ctr2 hs rfl [(.blockReq, HwMode.burst.code)],
    fun x hsource hpolarity => exec_setTrigger hs (triggerLegal_of_fits hsource hpolarity),
    setter_ctr2 hs rfl (triggerFields ⟨0, .none, .block⟩)⟩
  case mode => rw [exec_setHwRequestMode hs, hwMode_code]; rfl

/-! ## The repeat block (43_channel_config.md R244, R245) -/

/-- The channel with a repeat-block setting, on a channel with 2-D addressing. -/
def repeating (k : Cfg) (r : RepeatBlock) (c : Channel) : Channel :=
  { c with
    cbr1 := insFields k.layout (rbCbr1Fields r) c.cbr1
    ctr3 := insFields k.layout (rbCtr3Fields r) c.ctr3
    cbr2 := insFields k.layout (rbCbr2Fields r) c.cbr2 }

/-- The three accesses of a repeat-block setting. -/
def repeatWritten (k : Cfg) (r : RepeatBlock) (c : Channel) : Channel :=
  fieldsWritten k .cbr2 (rbCbr2Fields r) (fieldsWritten k .ctr3 (rbCtr3Fields r)
    (fieldsWritten k .cbr1 (rbCbr1Fields r) c))

theorem changes_repeatBlockWrites (r : RepeatBlock) :
    Changes k ch false false (repeatBlockWrites ch.toNat r) (repeatWritten k r) :=
  (Changes.rmw (by decide) (rbCbr1Fields r)).cons <| (Changes.rmw (by decide) (rbCtr3Fields r)).cons <|
    .rmw (by decide) (rbCbr2Fields r)

/-- A channel with 2-D addressing has every register and field of the setting (R245). -/
theorem repeatWritten_eq (r : RepeatBlock) {c : Channel} (h : c.twoD = true) :
    repeatWritten k r c = repeating k r c := by
  simp [repeatWritten, fieldsWritten, repeating, writeReg, readReg, linkWrite, cbr1View, h]

theorem setter_repeatBlock {legal : Bool} (hs : Settable s ch) (htwoD : (s.chan ch.toNat).twoD = true)
    (hlegal : legal = true) (r : RepeatBlock) :
    setter ch legal (repeatBlockWrites ch.toNat r) s = okAfter s ch (repeating s.cfg r) :=
  (setter_changes hs hlegal (changes_repeatBlockWrites r) (by simp [repeatBlockWrites])).trans
    (okAfter_congr (repeatWritten_eq r htwoD))

theorem exec_setRepeatBlock (hs : Settable s ch) (htwoD : (s.chan ch.toNat).twoD = true) {r : RepeatBlock}
    (hr : repeatBlockLegal r = true) : exec (.setRepeatBlock ch r) s = okAfter s ch (repeating s.cfg r) :=
  setter_repeatBlock hs htwoD (by rw [htwoD, hr]; rfl) r

/-- Settles O15: the three accesses on a channel that has the registers, a reset with the default record. -/
theorem repeatBlockSetterResult : Obligations.RepeatBlockSetterResult := by
  unfold Obligations.RepeatBlockSetterResult
  intro ch s hs htwoD L
  exact ⟨fun r hr => exec_setRepeatBlock hs htwoD hr, setter_repeatBlock hs htwoD htwoD rbDefault⟩

/-! ## The security attributes (43_channel_config.md R247, R248) -/

/-- The channel with a security setting, with the feature on. -/
def secured (k : Cfg) (x : Security) (c : Channel) : Channel :=
  { c with
    secAttr := ⟨x.chSec, x.chPriv⟩
    ctr1 := insFields k.layout (sideSecFields x.srcSec x.dstSec) c.ctr1 }

/-- SecAttr, an existing register with the feature on, takes both its fields. -/
theorem fieldsWritten_secFields (hk : k.wf = true) (hon : k.features.security = true) (b : SecAttr) (c : Channel) :
    fieldsWritten k .secAttr (secFields b) c = { c with secAttr := b } := by
  have hword : readReg k c .secAttr = secAttrWord k.layout c.secAttr := if_pos hon
  have hsec : given ((secFields b).lookup ·) .chSec c.secAttr.chSec = b.chSec := ofBool_getLsbD_zero _
  have hpriv : given ((secFields b).lookup ·) .chPriv c.secAttr.chPriv = b.chPriv := ofBool_getLsbD_zero _
  rw [fieldsWritten, writeReg_secAttr, if_pos hon, hword,
    secAttrOf_insFields (Cfg.wf_layout hk) (secFields_oneRegister b), hsec, hpriv]

theorem setter_security {legal : Bool} (hs : Settable s ch) (hk : s.cfg.wf = true)
    (hon : s.cfg.features.security = true) (hlegal : legal = true) (x : Security) :
    setter ch legal (securityWrites ch.toNat x) s = okAfter s ch (secured s.cfg x) := by
  have hattr : Changes s.cfg ch false false [.rmw ch.toNat .secAttr (secFields ⟨x.chSec, x.chPriv⟩)]
      fun c => { c with secAttr := ⟨x.chSec, x.chPriv⟩ } :=
    .congr (.rmw (by decide) _) (fieldsWritten_secFields hk hon _)
  exact setter_changes hs hlegal (hattr.cons (.ctr1 (sideSecFields x.srcSec x.dstSec))) (by simp [securityWrites])

/-- Settles O16: one access to SecAttr and one to CTR1. -/
theorem securitySetterResult : Obligations.SecuritySetterResult := by
  unfold Obligations.SecuritySetterResult
  intro ch s hs hk hon L
  exact ⟨fun x => setter_security hs hk hon hon x, setter_security hs hk hon hon ⟨false, false, false, false⟩⟩

end Setters

/-! ## The getters of registers (43_channel_config.md R225 to R255) -/

/-- A code of no polarity, and the reserved code, decode as `None` (R240). -/
theorem getterPolarity_eq (v : Word) : (if polarityOf v = .reserved then Polarity.none else polarityOf v) =
    if v = 1 then .rising else if v = 2 then .falling else .none := by
  have hcode (n : Nat) (hn : n < 2 ^ 32) : v.toNat = n ↔ v = BitVec.ofNat 32 n := by
    rw [← BitVec.toNat_inj, BitVec.toNat_ofNat, Nat.mod_eq_of_lt hn]
  by_cases hrising : v = 1
  · subst hrising; rfl
  by_cases hfalling : v = 2
  · subst hfalling; rfl
  rw [if_neg hrising, if_neg hfalling, polarityOf]
  split
  · rfl
  · next h => exact absurd ((hcode 1 (by decide)).mp h) hrising
  · next h => exact absurd ((hcode 2 (by decide)).mp h) hfalling
  · rfl

theorem getterTrigger_eq (L : Layout) (w : Word) : getterTrigger L w =
    ⟨Fld.trigSel.get L w, if polarityOf (Fld.trigPol.get L w) = .reserved then .none
      else polarityOf (Fld.trigPol.get L w), trigModeOf (Fld.trigMode.get L w)⟩ := by
  rw [getterTrigger, triggerOf]
  split <;> rfl

/-- PRIO of the word of CCR, truncated to its field (10_state.md R32). -/
theorem get_prio_ccrWord {L : Layout} (hL : L.wf = true) (c : Ccr) :
    Fld.prio.get L (ccrWord L c) = c.prio &&& Fld.prio.ones L :=
  get_pack hL (ccrFields_oneRegister c) (by simp [ccrFields])

section Gotten

variable {k : Cfg}

theorem gotten_directConfig (hL : k.layout.wf = true) (c : Channel) : gotten k .directConfig c =
    .directConfig (directConfigOf k.layout c.ctr1 c.ctr2 (c.ccr.prio &&& Fld.prio.ones k.layout)) := by
  rw [← get_prio_ccrWord hL]
  rfl

theorem gotten_priority (hL : k.layout.wf = true) (c : Channel) :
    gotten k .priority c = .priority (c.ccr.prio &&& Fld.prio.ones k.layout) := by
  rw [← get_prio_ccrWord hL]
  rfl

theorem gotten_hwMode (c : Channel) :
    gotten k .hwMode c = .hwMode (hwModeOf (Fld.blockReq.test k.layout c.ctr2)) := rfl

theorem gotten_port (c : Channel) : gotten k .port c =
    .port (portOf (Fld.srcPort.test k.layout c.ctr1)) (portOf (Fld.dstPort.test k.layout c.ctr1)) := rfl

theorem gotten_burst (c : Channel) : gotten k .burst c =
    .burst (Fld.srcBurst.get k.layout c.ctr1 + 1) (Fld.dstBurst.get k.layout c.ctr1 + 1) := rfl

theorem gotten_trigger (c : Channel) : gotten k .trigger c = .trigger (getterTrigger k.layout c.ctr2) := rfl

theorem gotten_dataHandling (c : Channel) :
    gotten k .dataHandling c = .dataHandling (dataHandlingOf k.layout c.ctr1) := rfl

theorem gotten_repeatBlock {c : Channel} (htwoD : c.twoD = true) :
    gotten k .repeatBlock c = .repeatBlock (repeatBlockOf k.layout c.cbr1 c.ctr3 c.cbr2) := by
  simp [gotten, getterRegs, getterValue, imgWord, readReg, cbr1View, htwoD]

theorem gotten_security (hL : k.layout.wf = true) (hon : k.features.security = true) (c : Channel) :
    gotten k .security c = .security ⟨c.secAttr.chSec, c.secAttr.chPriv, Fld.srcSec.test k.layout c.ctr1,
      Fld.dstSec.test k.layout c.ctr1⟩ := by
  have hword : readReg k c .secAttr = secAttrWord k.layout c.secAttr := if_pos hon
  have hback := secAttrOf_secAttrWord hL c.secAttr
  have hsec : Fld.chSec.test k.layout (readReg k c .secAttr) = c.secAttr.chSec :=
    hword ▸ congrArg SecAttr.chSec hback
  have hpriv : Fld.chPriv.test k.layout (readReg k c .secAttr) = c.secAttr.chPriv :=
    hword ▸ congrArg SecAttr.chPriv hback
  rw [← hsec, ← hpriv]
  rfl

end Gotten

/-- Settles O17: every getter answers what `gotten` says, the word of each register read back field by field. -/
theorem registerGetterResult : Obligations.RegisterGetterResult := by
  unfold Obligations.RegisterGetterResult
  intro ch s hg hk L c cbr1 ctr3 cbr2
  have hL : L.wf = true := Cfg.wf_layout hk
  have hanswer (g : Getter) : getter ch true g s = answered s (gotten s.cfg g c) := getter_answers hg rfl g
  refine ⟨?directConfig, ?priority, hanswer .hwMode, hanswer .port, hanswer .burst, ?trigger, hanswer .dataHandling,
    hanswer .repeatBlock, fun hon => ?security, hanswer .remaining⟩
  case directConfig => exact (hanswer .directConfig).trans (congrArg (answered s) (gotten_directConfig hL c))
  case priority => exact (hanswer .priority).trans (congrArg (answered s) (gotten_priority hL c))
  case trigger =>
    refine (hanswer .trigger).trans (congrArg (answered s) ?_)
    rw [gotten_trigger, getterTrigger_eq, getterPolarity_eq]
  case security => exact (getter_answers hg hon .security).trans (congrArg (answered s) (gotten_security hL hon c))

/-! ## The accessors of the handle (43_channel_config.md R250 to R254) -/

section Accessors

variable {s : State} {ch : ChId}

theorem setCallbackSlot_eq (slot : Slot) (f : Word) (cb : Callbacks) : setCallbackSlot slot f cb =
    { half := if slot = .half then f else cb.half
      complete := if slot = .complete then f else cb.complete
      abort := if slot = .abort then f else cb.abort
      suspend := if slot = .suspend then f else cb.suspend
      error := if slot = .error then f else cb.error } := by
  cases slot <;> rfl

/-- A command that answers a field of the handle. -/
theorem command_answer {legal : Bool} {gs : List (Nat → HostOp)} (hr : Ready s) (hlegal : legal = true)
    (hgs : ∀ g ∈ gs, Passes s g) (hlen : gs.length ≤ 62) (g : HandleGetter) :
    command legal gs [.answer ch.toNat g] s = answered s (handleValue g (s.chan ch.toNat).h) :=
  command_runs hr hlegal hgs (.op rfl (.single (runOp_ret ..))) (by omega) (by simp) (by simp)

end Accessors

/-- Settles O18: each command is one access to the handle. -/
theorem handleAccessorResult : Obligations.HandleAccessorResult := by
  unfold Obligations.HandleAccessorResult
  intro ch s hr hch h
  have hhas : s.hasChan ch.toNat = true := decide_eq_true hch
  have hlegal {on : Bool} (hon : on = true) : (s.hasChan ch.toNat && on) = true := by rw [hhas, hon]; rfl
  refine ⟨fun slot f hlife => ?register, command_answer (gs := []) hr hhas nofun (by simp) .state,
    fun hlife hon => ⟨fun p => ?setUserData, ?getUserData⟩, fun hlife hon => ?lastError⟩
  case register =>
    have hset := command_changes hr hch hhas (passes_stateIn (setterStates_life hlife)) rfl
      (changes_setCallback slot f) (by simp)
    exact hset.trans (okAfter_congr (by rw [onHandle, setCallbackSlot_eq]))
  case setUserData =>
    exact command_changes hr hch (hlegal hon) (passes_stateIn (initialised_life hlife)) rfl (changes_setUserData p)
      (by simp)
  case getUserData => exact command_answer hr (hlegal hon) (passes_stateIn (initialised_life hlife)) (by simp) .userData
  case lastError => exact command_answer hr (hlegal hon) (passes_stateIn (initialised_life hlife)) (by simp) .lastError

/-! ## A getter right after its setter (43_channel_config.md R225; 41_node_codec.md R178) -/

section Written

variable {L : Layout} {r : Reg} {fs : List (Fld × Word)} {f : Fld} {v : Word}

/-- A field reads as the value written to it, when the value fits. -/
theorem get_insFields_of_fits (hL : L.wf = true) (hfs : OneRegister r fs) (hv : fs.lookup f = some v)
    (hfits : v.toNat < 2 ^ f.width L) (w : Word) : f.get L (insFields L fs w) = v := by
  obtain ⟨before, after, hsplit, -⟩ := List.lookup_eq_some_iff.mp hv
  have hmem : (f, v) ∈ fs := by simp [hsplit]
  refine Eq.trans (BitVec.eq_of_getLsbD_eq fun i hi => ?_) (Fld.and_ones_of_lt f L v hfits)
  rw [Fld.get_getLsbD, BitVec.getLsbD_and, Fld.ones_getLsbD]
  by_cases hw : i < f.width L
  · rw [insFields_getLsbD_of_mem hL hfs.reg hfs.nodup hmem (Nat.le_add_right ..) (by omega)]
    simp [hi]
  · simp [hw]

/-- A one-bit field tests as bit 0 of the value written to it. -/
theorem test_insFields_of_lookup (hL : L.wf = true) (hfs : OneRegister r fs) (hv : fs.lookup f = some v)
    (hwidth : f.width L = 1) (w : Word) : f.test L (insFields L fs w) = v.getLsbD 0 := by
  obtain ⟨before, after, hsplit, -⟩ := List.lookup_eq_some_iff.mp hv
  have hreg : f.reg = r := hfs.reg (f, v) (by simp [hsplit])
  rw [test_insFields hL hfs hreg hwidth, given, hv]

end Written

section GetAfterSet

variable {k : Cfg} {s : State} {ch : ChId} {f : Channel → Channel} {v : Value}

/-- After a setter that keeps the handle initialised, the getter answers what the changed channel gives. -/
theorem getter_after_setter {i j : Instr} {g : Getter} {legal : Cfg → Bool} (hs : Settable s ch)
    (hlegal : legal s.cfg = true) (hset : exec i s = okAfter s ch f)
    (hget : ∀ t, exec j t = getter ch (legal t.cfg) g t) (hlife : (f (s.chan ch.toNat)).h.state ≠ .reset)
    (hv : gotten s.cfg g (f (s.chan ch.toNat)) = v) :
    ∃ t, exec i s = .next t ∧ exec j t = answered t v := by
  obtain ⟨⟨hpending, hquantum⟩, hch, -, -⟩ := hs
  refine ⟨_, hset, ?_⟩
  generalize ht : (s.onChan ch.toNat f).answer (plainReply .ok) = t
  have hcfg : t.cfg = s.cfg := by rw [← ht]; simp
  have hchan : t.chan ch.toNat = f (s.chan ch.toNat) := by
    rw [← ht, State.answer_chan, State.chan_onChan_same s _ f hch]
  have hg : Gettable t ch := by
    refine ⟨⟨?_, ?_⟩, ?_, by rw [life, hchan]; exact hlife⟩ <;> rw [← ht]
    · simpa using hpending
    · simpa using hquantum
    · simpa [Has] using hch
  rw [hget, getter_answers hg (hcfg ▸ hlegal), hcfg, hchan, hv]

theorem life_ne_reset (hs : Settable s ch) : life s ch ≠ .reset := by
  obtain ⟨-, -, hlife | hlife, -⟩ := hs <;> rw [hlife] <;> decide

theorem gotten_setConfigDirect (hL : k.layout.wf = true) {cfg : DirectConfig} (h : directConfigLegal k cfg = true)
    (c : Channel) : gotten k .directConfig (configuredDirect k cfg c) = .directConfig cfg := by
  simp only [directConfigLegal, priorityLegal, fitsField, Bool.and_eq_true, decide_eq_true_eq] at h
  obtain ⟨⟨⟨hrequest, -⟩, -⟩, -, hprio⟩ := h
  have hctr1 : OneRegister .ctr1 (widthIncFields cfg.srcWidth cfg.dstWidth cfg.srcInc cfg.dstInc) := by
    constructor <;> simp [widthIncFields, Fld.reg]
  have hctr2 : OneRegister .ctr2 (requestFields cfg.request cfg.direction) := by
    constructor <;> simp [requestFields, Fld.reg]
  have hdirection : directionOf k.layout (configuredDirect k cfg c).ctr2 = cfg.direction := by
    rw [configuredDirect, directionOf, test_insFields_of_lookup (f := .swReq) hL hctr2 rfl rfl,
      test_insFields_of_lookup (f := .dstReq) hL hctr2 rfl rfl]
    cases cfg.direction <;> rfl
  rw [gotten_directConfig hL, directConfigOf, hdirection, configuredDirect,
    get_insFields_of_fits (f := .reqSel) hL hctr2 rfl hrequest,
    test_insFields_of_lookup (f := .srcInc) hL hctr1 rfl rfl, test_insFields_of_lookup (f := .dstInc) hL hctr1 rfl rfl,
    get_insFields_of_fits (f := .srcWidth) hL hctr1 rfl (width_code_lt _),
    get_insFields_of_fits (f := .dstWidth) hL hctr1 rfl (width_code_lt _), incOf_code, incOf_code, widthOf_code,
    widthOf_code, Fld.and_ones_of_lt .prio k.layout _ hprio]

theorem gotten_setHwRequestMode (hL : k.layout.wf = true) (m : HwMode) (c : Channel) :
    gotten k .hwMode { c with ctr2 := insFields k.layout [(.blockReq, m.code)] c.ctr2 } = .hwMode m := by
  rw [gotten_hwMode, test_insFields_of_lookup (f := .blockReq) hL (oneRegister_singleton .blockReq m.code) rfl rfl,
    hwModeOf_code]

theorem gotten_setPort (hL : k.layout.wf = true) (a b : Port) (c : Channel) :
    gotten k .port { c with ctr1 := insFields k.layout (portFields a b) c.ctr1 } = .port a b := by
  have hfs : OneRegister .ctr1 (portFields a b) := by constructor <;> simp [portFields, Fld.reg]
  rw [gotten_port, test_insFields_of_lookup (f := .srcPort) hL hfs rfl rfl,
    test_insFields_of_lookup (f := .dstPort) hL hfs rfl rfl, portOf_code, portOf_code]

theorem gotten_setBurst (hL : k.layout.wf = true) {a b : Word} (ha : burstLegal a = true) (hb : burstLegal b = true)
    (c : Channel) : gotten k .burst { c with ctr1 := insFields k.layout (burstFields a b) c.ctr1 } = .burst a b := by
  have hfs : OneRegister .ctr1 (burstFields a b) := by constructor <;> simp [burstFields, Fld.reg]
  rw [gotten_burst, get_insFields_of_fits (f := .srcBurst) hL hfs rfl (burst_fits ha),
    get_insFields_of_fits (f := .dstBurst) hL hfs rfl (burst_fits hb), BitVec.sub_add_cancel, BitVec.sub_add_cancel]

theorem gotten_setTrigger (hL : k.layout.wf = true) {x : Trigger} (hx : triggerLegal k.layout x = true) (c : Channel) :
    gotten k .trigger { c with ctr2 := insFields k.layout (triggerFields x) c.ctr2 } = .trigger x := by
  simp only [triggerLegal, fitsField, polarityLegal, Bool.and_eq_true, decide_eq_true_eq, bne_iff_ne] at hx
  obtain ⟨hsource, hpolarity⟩ := hx
  have hfs : OneRegister .ctr2 (triggerFields x) := by constructor <;> simp [triggerFields, Fld.reg]
  rw [gotten_trigger, getterTrigger_eq, get_insFields_of_fits (f := .trigSel) hL hfs rfl hsource,
    get_insFields_of_fits (f := .trigPol) hL hfs rfl (polarity_code_lt _),
    get_insFields_of_fits (f := .trigMode) hL hfs rfl (trigMode_code_lt _), polarityOf_code, trigModeOf_code,
    if_neg hpolarity]

theorem gotten_setDataHandling (hL : k.layout.wf = true) {d : DataHandling} (hd : dataHandlingLegal d = true)
    (c : Channel) :
    gotten k .dataHandling { c with ctr1 := insFields k.layout (dataHandlingFields d) c.ctr1 } = .dataHandling d := by
  have hfs : OneRegister .ctr1 (dataHandlingFields d) := by constructor <;> simp [dataHandlingFields, Fld.reg]
  rw [gotten_dataHandling, dataHandlingOf, test_insFields_of_lookup (f := .srcByteXchg) hL hfs rfl rfl,
    test_insFields_of_lookup (f := .dstByteXchg) hL hfs rfl rfl,
    test_insFields_of_lookup (f := .dstHalfXchg) hL hfs rfl rfl,
    get_insFields_of_fits (f := .padAlign) hL hfs rfl (of_decide_eq_true hd)]
  simp only [ofBool_getLsbD_zero]

theorem gotten_setRepeatBlock (hL : k.layout.wf = true) {r : RepeatBlock} (hr : repeatBlockLegal r = true) {c : Channel}
    (htwoD : c.twoD = true) : gotten k .repeatBlock (repeating k r c) = .repeatBlock r := by
  simp only [repeatBlockLegal, Bool.and_eq_true, decide_eq_true_eq] at hr
  obtain ⟨⟨⟨⟨hcount, hsrcBurst⟩, hdstBurst⟩, hsrcBlock⟩, hdstBlock⟩ := hr
  have hcbr1 : OneRegister .cbr1 (rbCbr1Fields r) := by constructor <;> simp [rbCbr1Fields, Fld.reg]
  rw [gotten_repeatBlock (c := repeating k r c) htwoD, repeating, repeatBlockOf,
    get_insFields_of_fits (f := .brc) hL hcbr1 rfl (blockCount_fits hcount),
    test_insFields_of_lookup (f := .srcDec) hL hcbr1 rfl rfl, test_insFields_of_lookup (f := .dstDec) hL hcbr1 rfl rfl,
    test_insFields_of_lookup (f := .blkSrcDec) hL hcbr1 rfl rfl,
    test_insFields_of_lookup (f := .blkDstDec) hL hcbr1 rfl rfl,
    get_insFields_of_fits (f := .srcBurstOfs) hL (rbCtr3Fields_oneRegister r) rfl hsrcBurst,
    get_insFields_of_fits (f := .dstBurstOfs) hL (rbCtr3Fields_oneRegister r) rfl hdstBurst,
    get_insFields_of_fits (f := .blkSrcOfs) hL (rbCbr2Fields_oneRegister r) rfl hsrcBlock,
    get_insFields_of_fits (f := .blkDstOfs) hL (rbCbr2Fields_oneRegister r) rfl hdstBlock]
  simp only [dirOf_code, BitVec.sub_add_cancel]

theorem gotten_setSecurity (hL : k.layout.wf = true) (hon : k.features.security = true) (x : Security) (c : Channel) :
    gotten k .security (secured k x c) = .security x := by
  have hfs : OneRegister .ctr1 (sideSecFields x.srcSec x.dstSec) := by constructor <;> simp [sideSecFields, Fld.reg]
  rw [gotten_security hL hon, secured, test_insFields_of_lookup (f := .srcSec) hL hfs rfl rfl,
    test_insFields_of_lookup (f := .dstSec) hL hfs rfl rfl, ofBool_getLsbD_zero, ofBool_getLsbD_zero]

end GetAfterSet

/-- Settles O19: a setter's fields read back from the registers it wrote, in every well-formed layout. -/
theorem getAfterSet : Obligations.GetAfterSet := by
  unfold Obligations.GetAfterSet
  intro ch s hs hk
  have hL := Cfg.wf_layout hk
  have hlife := life_ne_reset hs
  have hafter {i j : Instr} {g : Getter} {f : Channel → Channel} {v : Value} (hset : exec i s = okAfter s ch f)
      (hget : ∀ t, exec j t = getter ch true g t) (hkeeps : (f (s.chan ch.toNat)).h.state ≠ .reset)
      (hv : gotten s.cfg g (f (s.chan ch.toNat)) = v) : ∃ t, exec i s = .next t ∧ exec j t = answered t v :=
    getter_after_setter (legal := fun _ => true) hs rfl hset hget hkeeps hv
  refine ⟨fun cfg h => ?directConfig, fun m => ?hwMode, fun a b => ?port, fun a b ha ha' hb hb' => ?burst,
    fun x hx => ?trigger, fun d hd => ?dataHandling, fun r htwoD hr => ?repeatBlock, fun x hon => ?security⟩
  case directConfig =>
    exact hafter (exec_setConfigDirect hs h) (fun _ => rfl) (show Life.idle ≠ .reset by decide)
      (gotten_setConfigDirect hL h _)
  case hwMode => exact hafter (exec_setHwRequestMode hs m) (fun _ => rfl) hlife (gotten_setHwRequestMode hL m _)
  case port => exact hafter (exec_setPort hs a b) (fun _ => rfl) hlife (gotten_setPort hL a b _)
  case burst =>
    have hla := burstLegal_of_bounds ha ha'
    have hlb := burstLegal_of_bounds hb hb'
    exact hafter (exec_setBurst hs hla hlb) (fun _ => rfl) hlife (gotten_setBurst hL hla hlb _)
  case trigger => exact hafter (exec_setTrigger hs hx) (fun _ => rfl) hlife (gotten_setTrigger hL hx _)
  case dataHandling => exact hafter (exec_setDataHandling hs hd) (fun _ => rfl) hlife (gotten_setDataHandling hL hd _)
  case repeatBlock =>
    exact hafter (exec_setRepeatBlock hs htwoD hr) (fun _ => rfl) hlife (gotten_setRepeatBlock hL hr htwoD)
  case security =>
    exact getter_after_setter (legal := fun k => k.features.security) hs hon (setter_security hs hk hon hon x)
      (fun _ => rfl) hlife (gotten_setSecurity hL hon x _)

end Sys2Proof.Configuration
end

section
/-! The transfer engine (44_transfer_engine.md): the interrupt subsets (O22), the starts (O23 to O25), suspend, resume,
abort and poll when they are issued (O27 to O29), and the turns of a host that waits (O30 to O32). -/

namespace Sys2Proof.Transfers

open Sys2Proof.Machine Sys2Proof.Claims Sys2Proof.Scope Sys2Proof.Encoding Sys2Proof.RegisterFile Sys2Proof.QueueEdits
  Sys2Proof.Configuration

/-! ## The interrupt subsets (44_transfer_engine.md R261) -/

/-- Settles O22: the subsets as sets by definition, in every well-formed layout because the enable fields read back, and
under LAYOUT_U5 by evaluation. -/
theorem interruptSubsets : Obligations.InterruptSubsets := by
  unfold Obligations.InterruptSubsets
  exact ⟨⟨rfl, rfl, rfl, rfl, rfl⟩, fun L x hL => ofEnables_toEnables hL (ieOf x), by decide, by decide, by decide,
    by decide, by decide⟩

/-! ## The starts (44_transfer_engine.md R262, R265) -/

theorem flagsDiff_all (f : FlagSet) : flagsDiff f allFlags = FlagSet.empty := by
  simp [flagsDiff, flagsMap2, allFlags, FlagSet.empty]

section Starts

variable {k : Cfg} {s : State} {ch : ChId} {a : Bool}

theorem changes_clearFlags : Changes k ch a a [.flagClear ch.toNat allFlags]
    fun c => { c with csr := { c.csr with flags := FlagSet.empty } } :=
  .congr (f := chFlagClear allFlags) (.single (fun _ _ => rfl) fun _ h => h) fun c => by
    rw [chFlagClear, flagsDiff_all]

theorem changes_ieWrite (fs : FlagSet) : Changes k ch a a [.ieWrite ch.toNat fs] (chIeWrite fs) :=
  .single (fun _ _ => rfl) fun _ h => h

/-- The end of every start: cleared flags, the subset's enables, `Active` (R262, R265). -/
theorem changes_activate (set : IntSet) : Changes k ch a a
    [.flagClear ch.toNat allFlags, .ieWrite ch.toNat (ieOf set), .setState ch.toNat .active]
    fun c => { c with
      csr := { c.csr with flags := FlagSet.empty }
      ccr := { c.ccr with ie := ieOf set }
      h := { c.h with state := .active } } :=
  changes_clearFlags.cons <| (changes_ieWrite (ieOf set)).cons (changes_setState .active)

/-- A start whose tests pass on a disabled channel: its writes, then the enable (R262, R265, R287). -/
theorem startFrame_changes {operands : Bool} {modes : List Mode} {ops : List HostOp} {f : Channel → Channel}
    (hr : Ready s) (hch : Has s ch) (hlife : life s ch = .idle)
    (hmode : modes.contains (s.chan ch.toNat).h.mode = true) (hen : (s.chan ch.toNat).ccr.en = false)
    (hoperands : operands = true) (h : Changes s.cfg ch false false ops f) (hlen : ops.length ≤ 29) :
    startFrame ch operands modes (ops ++ [HostOp.enable ch.toNat, HostOp.ret (plainReply .ok)]) s =
      okAfter s ch fun c => chEnable s.cfg (f c) := by
  have hguards : ∀ g ∈ [.busyTest ch.toNat, stateIn ch [.idle], modeIn ch modes], Passes s g :=
    List.forall_mem_cons.mpr ⟨passes_busyTest (hlife.trans_ne (by decide)),
      List.forall_mem_cons.mpr ⟨passes_require (by simp [handleTest, hlife]),
        List.forall_mem_singleton.mpr (passes_require hmode)⟩⟩
  have hidle : Runs 1 [.idleOverRunning ch.toNat] s s := .single (by simp [runOp_idleOverRunning, hen])
  obtain ⟨n, hn, hruns⟩ := h.runs s rfl hch hen
  have henable : Runs 1 [.enable ch.toNat] (s.onChan ch.toNat f) (s.onChan ch.toNat fun c => chEnable s.cfg (f c)) := by
    rw [← State.onChan_onChan s _ f _ hch]
    exact .single rfl
  have hall := hidle.append (hruns.append (henable.append (.single (runOp_ret (plainReply .ok) _))))
  exact command_runs hr hoperands hguards hall (by simp only [List.length_cons, List.length_nil]; omega) (by simp)
    (by simp)

/-! ### Direct starts (R262) -/

theorem aligned4_of_toNat {x : Word} (h : x.toNat % 4 = 0) : aligned4 x = true := by
  have hlow : x.extractLsb' 0 2 = 0 := BitVec.eq_of_toNat_eq (by simpa using h)
  rw [aligned4, hlow]
  rfl

theorem directOperands_legal {src dst size : Word} (hch : Has s ch) (hsrc : src.toNat % 4 = 0)
    (hdst : dst.toNat % 4 = 0) (hlo : 1 ≤ size.toNat) (hhi : size.toNat ≤ 65535) :
    directOperands ch src dst size s = true := by
  simp [directOperands, State.hasChan, sizeLegal, hch, hlo, hhi, aligned4_of_toNat hsrc, aligned4_of_toNat hdst]

/-- The addresses and the block size of a direct start. -/
theorem changes_directRegisters (src dst size : Word) : Changes k ch false false
    [.regWrite ch.toNat .csar src, .regWrite ch.toNat .cdar dst, .rmw ch.toNat .cbr1 [(.bndt, size)]]
    fun c => { c with
      csar := src
      cdar := dst
      cbr1 := cbr1View k.layout c (Fld.bndt.ins k.layout size (cbr1View k.layout c c.cbr1)) } :=
  have hcsar (c : Channel) : writeReg k .csar src c = { c with csar := src } := rfl
  have hcdar (c : Channel) : writeReg k .cdar dst c = { c with cdar := dst } := rfl
  have hcbr1 (c : Channel) : fieldsWritten k .cbr1 [(.bndt, size)] c =
      { c with cbr1 := cbr1View k.layout c (Fld.bndt.ins k.layout size (cbr1View k.layout c c.cbr1)) } := rfl
  .cons (.congr (.regWrite (by decide) src) hcsar) <| .cons (.congr (.regWrite (by decide) dst) hcdar) <|
    .congr (.rmw (by decide) [(.bndt, size)]) hcbr1

theorem startDirect_idle {src dst size : Word} (hr : Ready s) (hch : Has s ch) (hlife : life s ch = .idle)
    (hmode : (s.chan ch.toNat).h.mode = .direct) (hen : (s.chan ch.toNat).ccr.en = false)
    (hoperands : directOperands ch src dst size s = true) (set : IntSet) :
    startDirect ch src dst size set s = directStarted s ch src dst size set := by
  have hwrites := (changes_setError (k := s.cfg) (ch := ch) (a := false) 0).cons <|
    (changes_directRegisters src dst size).append <| (changes_setBlockSize size).cons (changes_activate set)
  have hdirect : [Mode.direct].contains (s.chan ch.toNat).h.mode = true := by rw [hmode]; rfl
  have hstart := startFrame_changes hr hch hlife hdirect hen hoperands hwrites (by simp)
  exact hstart.trans (okAfter_congr (congrArg (chEnable s.cfg) rfl))

/-! ### Linked-list starts (R265, R266) -/

theorem window_extract (x : Word) : (x &&& 0xFFFF0000).extractLsb' 16 16 = x.extractLsb' 16 16 := by
  have hmask : (0xFFFF0000 : Word).extractLsb' 16 16 = BitVec.allOnes 16 := by decide
  rw [BitVec.extractLsb'_and, hmask, BitVec.and_allOnes]

theorem changes_upgrade (circular : Bool) : Changes k ch a a
    (if circular then [.setMode ch.toNat .linkedListCircular] else [])
    (onHandle fun h => { h with mode := if circular then .linkedListCircular else h.mode }) := by
  cases circular
  · exact .nil
  · exact changes_setMode .linkedListCircular

/-- The handle of a linked-list start before it is `Active`. -/
theorem changes_listHandle (head : Word) (circular : Bool) : Changes k ch a a
    ([HostOp.setError ch.toNat 0] ++ (if circular then [HostOp.setMode ch.toNat .linkedListCircular] else [])
      ++ [HostOp.setHead ch.toNat (some head), HostOp.setBlockSize ch.toNat 0])
    (onHandle fun h => { h with
      lastError := if k.features.errorCodes then 0 else h.lastError
      mode := if circular then .linkedListCircular else h.mode
      head := some head
      blockSize := 0 }) := by
  have hfields := ((changes_setError (k := k) (ch := ch) (a := a) 0).append (changes_upgrade circular)).append
    ((changes_setHead (some head)).cons (changes_setBlockSize 0))
  exact hfields.congr fun _ => by simp only [onHandle]

/-- The window, CBR1 and the link word of a linked-list start. -/
theorem changes_listRegisters (head link : Word) : Changes k ch false false
    [.regWrite ch.toNat .clbar (head &&& 0xFFFF0000), .regWrite ch.toNat .cbr1 0, .regWrite ch.toNat .cllr link]
    fun c => { c with lba := head.extractLsb' 16 16, cbr1 := 0, cllr := link } :=
  have hclbar (c : Channel) : writeReg k .clbar (head &&& 0xFFFF0000) c = { c with lba := head.extractLsb' 16 16 } :=
    congrArg (fun w => { c with lba := w }) (window_extract head)
  have hcbr1 (c : Channel) : writeReg k .cbr1 0 c = { c with cbr1 := 0 } :=
    congrArg (fun w => { c with cbr1 := w }) (cbr1View_zero k.layout c)
  .cons (.congr (.regWrite (by decide) _) hclbar) <| .cons (.congr (.regWrite (by decide) 0) hcbr1) <|
    .regWrite (by decide) link

/-- The queue operand is the record of a non-empty queue of the channel's kind at legal addresses (R265). -/
theorem listOperands_legal {q : Word} {v : Queue} {n : QNode} {ns : List QNode} (hch : Has s ch)
    (hon : s.cfg.features.linkedList = true) (hq : s.queue q = some v) (hnodes : v.nodes = n :: ns)
    (hkind : v.kind = kindOf (s.chan ch.toNat))
    (haddrs : addressesLegal (nodeWords s.cfg v.kind) (queueAddrs v) = true) : listOperands ch q s = true := by
  rw [hkind] at haddrs
  simp [listOperands, hon, State.hasChan, hch, hq, nodeCount, hnodes, hkind, haddrs]

theorem linkStatic_kindOf (k : Cfg) (c : Channel) (head : Word) : linkStatic k (kindOf c) head =
    updWord k.layout (if c.twoD then k.nodeRegs2d else 0b10011111) ||| (head &&& 0x0000FFFC) := by
  unfold kindOf
  cases c.twoD <;> rfl

theorem startList_idle {q : Word} {v : Queue} {n : QNode} {ns : List QNode} (hr : Ready s) (hch : Has s ch)
    (hlife : life s ch = .idle) (hmode : (s.chan ch.toNat).h.mode ≠ .direct)
    (hen : (s.chan ch.toNat).ccr.en = false) (hoperands : listOperands ch q s = true) (hq : s.queue q = some v)
    (hnodes : v.nodes = n :: ns) (set : IntSet) :
    startList ch q set s = listStarted s ch n.addr v.fc.isSome set := by
  have hhead : (queueAddrs v).headD 0 = n.addr := by simp [queueAddrs, hnodes]
  have hlist : [Mode.linkedListLinear, .linkedListCircular].contains (s.chan ch.toNat).h.mode = true := by
    cases hm : (s.chan ch.toNat).h.mode
    · exact absurd hm hmode
    all_goals rfl
  have hwrites := ((changes_listHandle n.addr v.fc.isSome).append
    (changes_listRegisters (k := s.cfg) (ch := ch) n.addr (linkStatic s.cfg (kindOf (s.chan ch.toNat)) n.addr))).append
    (changes_activate set)
  have hstart := startFrame_changes hr hch hlife hlist hen hoperands hwrites (by split <;> simp)
  rw [startList, hq, Option.getD_some, hhead, listOps]
  simp only [List.append_assoc, List.cons_append, List.nil_append] at hstart ⊢
  exact hstart.trans (okAfter_congr (by rw [linkStatic_kindOf]; exact congrArg (chEnable s.cfg) rfl))

end Starts

/-- Settles O23: the pseudo-commands are the start with their subset. -/
theorem startDirectResult : Obligations.StartDirectResult := by
  unfold Obligations.StartDirectResult
  intro ch s src dst size hr hch hlife hmode hen hsrc hdst hlo hhi
  have hstart := startDirect_idle hr hch hlife hmode hen (directOperands_legal hch hsrc hdst hlo hhi)
  exact ⟨hstart, fun set hset => (if_neg hset).trans (hstart set), hstart .silent, hstart .default⟩

/-- Settles O24: the pseudo-commands are the start with their subset. -/
theorem startLinkedListResult : Obligations.StartLinkedListResult := by
  unfold Obligations.StartLinkedListResult
  intro ch s q v n ns hr hch hlife hmode hen hon hq hnodes hkind haddrs
  have hoperands := listOperands_legal hch hon hq hnodes hkind haddrs
  have hstart := startList_idle hr hch hlife hmode hen hoperands hq hnodes
  exact ⟨hstart, hstart, hstart .silent, hstart .default⟩

/-! ## Starts of a channel that is not idle (44_transfer_engine.md R262, R265, R287) -/

section NotIdle

variable {s : State} {ch : ChId}

/-- The test for `Active` comes first and drops the rest of the start (R287). -/
theorem startFrame_busy {operands : Bool} {modes : List Mode} {ops : List HostOp} (hr : Ready s)
    (hoperands : operands = true) (hlife : life s ch = .active) :
    startFrame ch operands modes ops s = .next (s.answer (plainReply .busy)) := by
  obtain ⟨hpending, hquantum⟩ := hr
  have hbusy (left : Nat) : runOp (.busyTest ch.toNat left) s = .skip left [.ret (plainReply .busy)] s := by
    rw [runOp_busyTest, if_pos hlife]
  rw [startFrame, command_run hoperands, guarded_cons]
  refine runHost_done (n := 2) hpending (by omega) ?_ (State.answer_isr ..) (State.answer_todo ..)
  rw [runOps_skip (hbusy _), List.drop_length, List.append_nil, runOps_go (runOp_ret ..)]
  rfl

/-- Every form of a direct start is `start_direct` with some subset (30_encoding.md R128). -/
theorem exec_directStarts {src dst size : Word} {set : IntSet} {i : Instr} (h : i ∈ directStarts ch src dst size set) :
    ∃ set', exec i s = startDirect ch src dst size set' s := by
  simp only [directStarts, List.mem_append, List.mem_cons, List.not_mem_nil, or_false] at h
  rcases h with (rfl | rfl | rfl) | h
  · exact ⟨set, rfl⟩
  · exact ⟨.silent, rfl⟩
  · exact ⟨.default, rfl⟩
  · split at h
    · cases h
    · next hset =>
      obtain rfl := List.mem_singleton.mp h
      exact ⟨set, if_neg hset⟩

/-- Every form of a linked-list start is `start_linked_list` with some subset (30_encoding.md R128). -/
theorem exec_listStarts {q : Word} {set : IntSet} {i : Instr} (h : i ∈ listStarts ch q set) :
    ∃ set', exec i s = startList ch q set' s := by
  simp only [listStarts, List.mem_cons, List.not_mem_nil, or_false] at h
  rcases h with rfl | rfl | rfl | rfl
  exacts [⟨set, rfl⟩, ⟨.silent, rfl⟩, ⟨.default, rfl⟩, ⟨set, rfl⟩]

theorem directStartOk_false {src dst size : Word} (hactive : life s ch ≠ .active)
    (h : life s ch ≠ .idle ∨ (s.chan ch.toNat).h.mode ≠ .direct) : directStartOk s ch src dst size = false := by
  rcases h with h | h <;> simp [hactive, h]

theorem listStartOk_false {q : Word} (hactive : life s ch ≠ .active)
    (h : life s ch ≠ .idle ∨ (s.chan ch.toNat).h.mode = .direct) : listStartOk s ch q = false := by
  rcases h with h | h <;> simp [hactive, h]

end NotIdle

/-- Settles O25: each form is one of the two starts; the test for `Active` comes first, and the rest are the violations
of O20. -/
theorem startBusyOrViolation : Obligations.StartBusyOrViolation := by
  unfold Obligations.StartBusyOrViolation
  intro ch s set i hr
  refine ⟨fun src dst size hi => ?direct, fun q hi => ?list⟩
  case direct =>
    obtain ⟨set', hexec⟩ := exec_directStarts (s := s) hi
    rw [hexec, violated_eq_violation]
    refine ⟨fun hoperands hlife => startFrame_busy hr hoperands hlife,
      fun _ hactive hbad => startDirect_violation hr (.inr (directStartOk_false hactive hbad)),
      fun hoperands => startDirect_violation hr (.inr ?_)⟩
    rw [directStartOk, hoperands, Bool.false_and]
  case list =>
    obtain ⟨set', hexec⟩ := exec_listStarts (s := s) hi
    rw [hexec, violated_eq_violation]
    refine ⟨fun hoperands hlife => startFrame_busy hr hoperands hlife,
      fun _ hactive hbad => startList_violation hr (.inr (listStartOk_false hactive hbad)),
      fun hoperands => startList_violation hr (.inr ?_)⟩
    rw [listStartOk, hoperands, Bool.false_and]

/-! ## Operations on one channel, one access each (20_memory.md R86) -/

/-- On a channel that exists the operations take one access each and change the channel by `f`, nothing else. -/
def Acts (i : Nat) (ops : List HostOp) (f : Channel → Channel) : Prop :=
  ∀ s : State, i < s.chans.length → Runs ops.length ops s (s.onChan i f)

section Acts

variable {i : Nat} {op : HostOp} {ops : List HostOp} {f g : Channel → Channel} {s : State} {ch : ChId}

theorem Acts.single (h : ∀ s, runOp op s = .go [] (s.onChan i f)) : Acts i [op] f := fun s _ => .single (h s)

theorem Acts.cons (h : Acts i [op] f) (h' : Acts i ops g) : Acts i (op :: ops) fun c => g (f c) := fun s hi => by
  rw [← State.onChan_onChan s i f g hi, List.length_cons, Nat.add_comm]
  exact (h s hi).append (h' _ (by rwa [State.onChan_length]))

theorem Acts.congr (h : Acts i ops f) (hfg : ∀ c, f c = g c) : Acts i ops g := funext hfg ▸ h

theorem acts_setState (l : Life) : Acts i [.setState i l] (onHandle fun h => { h with state := l }) :=
  .single fun _ => rfl

/-- The channel asked to suspend (40_register_file.md R152). -/
def suspending (c : Channel) : Channel := { c with ccr := suspRequested c }

theorem acts_suspReq : Acts i [.suspReq i] suspending :=
  .congr (f := chSuspReq) (.single fun _ => rfl) chSuspReq_eq

theorem flagsOr_suspf (f : FlagSet) : flagsOr f flagSUSPF = { f with suspf := true } := by
  simp [flagsOr, flagsMap2, flagSUSPF, FlagSet.empty]

/-- `ie_set` of SUSPIE (40_register_file.md R147). -/
theorem acts_suspIe : Acts i [.ieSet i flagSUSPF]
    fun c => { c with ccr := { c.ccr with ie := { c.ccr.ie with suspf := true } } } :=
  .congr (f := chIeSet flagSUSPF) (.single fun _ => rfl) fun c => by rw [chIeSet, flagsOr_suspf]

/-- A suspend request with its interrupt (R270, R275). -/
theorem acts_suspReqIt : Acts i [.ieSet i flagSUSPF, .suspReq i]
    fun c => { c with ccr := { suspRequested c with ie := { c.ccr.ie with suspf := true } } } :=
  (acts_suspIe.cons acts_suspReq).congr fun _ => rfl

/-- The channel asked to suspend, its handle in `Abort` (R273). -/
def aborting (c : Channel) : Channel := { c with ccr := suspRequested c, h := { c.h with state := .abort } }

theorem acts_aborting : Acts i [.setState i .abort, .suspReq i] aborting :=
  ((acts_setState .abort).cons acts_suspReq).congr fun _ => rfl

/-- A channel that has been reset, its handle in `Idle` (R268, R273, R277). -/
def resetToIdle (c : Channel) : Channel := { wiped c with h := { c.h with state := .idle } }

theorem acts_reset : Acts i [.chReset i] wiped := .single fun _ => rfl

/-- The end of a suspend whose hardware is idle (R268). -/
theorem acts_resetToIdle : Acts i [.chReset i, .setState i .idle] resetToIdle :=
  (acts_reset.cons (acts_setState .idle)).congr fun _ => rfl

/-- The end of an abort and of a failed poll: the flags are clear after the reset (R273, R277). -/
theorem acts_clearToIdle : Acts i [.chReset i, .flagClear i allFlags, .setState i .idle] resetToIdle := by
  have hclear : Acts i [.flagClear i allFlags] (chFlagClear allFlags) := .single fun _ => rfl
  exact (acts_reset.cons (hclear.cons (acts_setState .idle))).congr fun _ => rfl

/-- A change that keeps the status. -/
theorem csr_onChan (hi : i < s.chans.length) (hf : (f (s.chan i)).csr = (s.chan i).csr) :
    ((s.onChan i f).chan i).csr = (s.chan i).csr := by rw [State.chan_onChan_same s i f hi, hf]

/-- Updates that agree on the channel they act on answer the same. -/
theorem repliedAt_congr {r : Result} (h : f (s.chan i) = g (s.chan i)) : repliedAt s i r f = repliedAt s i r g := by
  rw [repliedAt, State.onChan, h]
  rfl

/-- A command that acts on its channel and replies. -/
theorem command_acts {legal : Bool} {gs : List (Nat → HostOp)} (hr : Ready s) (hch : Has s ch)
    (hlegal : legal = true) (hgs : ∀ g ∈ gs, Passes s g) (h : Acts ch.toNat ops f)
    (hlen : ops.length + gs.length < 64) (r : Result) :
    command legal gs (ops ++ [HostOp.ret (plainReply r)]) s = replied s ch r f :=
  command_runs hr hlegal hgs ((h s hch).append (.single (runOp_ret ..))) (by omega) (by simp) (by simp)

end Acts

/-! ## Turns of HOST-APP that may wait (44_transfer_engine.md R267; log 2) -/

/-- HOST-APP with nothing left to do. -/
def released (s : State) : State := { s with app := { s.app with todo := [] } }

/-- What a turn of HOST-APP answers: the operations left go back to it. -/
def turnEnd : Host.Outcome (List HostOp × State) Fault Refusal → Out
  | .next (left, t) => .next { t with app := { t.app with todo := left } }
  | .fault f => .fault f
  | .refused r => .refused r

/-- In a turn of at least `n` accesses, in which HOST-APP has these operations to do, the machine answers `o`. -/
def Ends (n : Nat) (ops : List HostOp) (s : State) (o : Out) : Prop := ∀ m, n ≤ m → turnEnd (runOps m ops s) = o

section Ends

variable {n m i : Nat} {op : HostOp} {ops ops' : List HostOp} {f g : Channel → Channel} {s t : State} {o : Out}
  {ch : ChId}

theorem Ends.mono (h : Ends n ops s o) (hnm : n ≤ m) : Ends m ops s o := fun l hl => h l (hnm.trans hl)

theorem ends_of_runs (h : Runs n ops s t) (h' : Ends m ops' t o) : Ends (n + m) (ops ++ ops') s o := fun l hl => by
  obtain ⟨k, rfl⟩ := Nat.exists_eq_add_of_le hl
  rw [Nat.add_assoc, h]
  exact h' _ (Nat.le_add_right ..)

theorem ends_go (hop : runOp op s = .go ops t) (h : Ends n ops t o) : Ends (n + 1) [op] s o := fun l hl => by
  obtain ⟨k, rfl⟩ := Nat.exists_eq_add_of_le' (Nat.one_le_of_lt hl)
  rw [runOps_go hop, List.append_nil]
  exact h k (Nat.le_of_add_le_add_right hl)

theorem ends_nil (s : State) : Ends 0 [] s (.next (released s)) := fun l _ => by rw [runOps_nil]; rfl

theorem ends_yield (hop : runOp op s = .yield ops s) :
    Ends 1 [op] s (.next { s with app := { s.app with todo := ops } }) := fun l hl => by
  obtain ⟨k, rfl⟩ := Nat.exists_eq_add_of_le' hl
  rw [runOps_yield hop, List.append_nil]
  rfl

theorem ends_fault {e : Fault} (hop : runOp op s = .fault e) : Ends 2 [op] s (.fault e) := fun l hl => by
  obtain ⟨k, rfl⟩ := Nat.exists_eq_add_of_le' hl
  rw [runOps_fault hop]
  rfl

theorem ends_refused {e : Refusal} (hop : runOp op s = .refused e) : Ends 2 [op] s (.refused e) := fun l hl => by
  obtain ⟨k, rfl⟩ := Nat.exists_eq_add_of_le' hl
  rw [runOps_refused hop]
  rfl

theorem released_answer (s : State) (r : Reply) : released (s.answer r) = (released s).answer r := by
  unfold State.answer
  cases hisr : s.isr <;> simp [released, hisr]

theorem ends_ret (r : Reply) (s : State) : Ends 1 [.ret r] s (.next ((released s).answer r)) := by
  rw [← released_answer]
  exact ends_go (runOp_ret r s) (ends_nil _)

/-- Operations that have changed the channel, then the reply. -/
theorem ends_replied (h : Runs n ops s (s.onChan i f)) (r : Result) :
    Ends (n + 1) (ops ++ [HostOp.ret (plainReply r)]) s (repliedAt (released s) i r f) :=
  ends_of_runs h (ends_ret (plainReply r) _)

theorem Acts.ends_replied (h : Acts i ops f) (hi : i < s.chans.length) (r : Result) :
    Ends (ops.length + 1) (ops ++ [HostOp.ret (plainReply r)]) s (repliedAt (released s) i r f) :=
  Transfers.ends_replied (h s hi) r

/-- A reply after one more change of the channel. -/
theorem repliedAt_onChan (r : Result) (hi : i < s.chans.length) :
    repliedAt (released (s.onChan i f)) i r g = repliedAt (released s) i r fun c => g (f c) := by
  have h : (released s).onChan i f = released (s.onChan i f) := rfl
  rw [repliedAt, ← h, State.onChan_onChan (released s) i f g hi]

/-- HOST-APP takes a turn long enough for what it has to do. -/
theorem Ends.runHost (h : Ends n (ops ++ s.app.todo) s o) (hisr : s.isr = none) (hq : n ≤ s.quantum) :
    Machine.runHost ops s = o := by
  have hpending : s.pending = s.app.todo := by simp [State.pending, hisr]
  rw [Machine.runHost, hpending, ← h _ hq]
  cases runOps s.quantum (ops ++ s.app.todo) s <;> simp [turnEnd, State.putPending, hisr]

theorem todo_of_ready (hr : Ready s) (happ : App s) : s.app.todo = [] := by
  obtain ⟨hpending, -⟩ := hr
  have hisr : s.isr = none := happ
  simpa [State.pending, hisr] using hpending

theorem released_of_ready (hr : Ready s) (happ : App s) : released s = s := by
  rw [released, ← todo_of_ready hr happ]

theorem ends_guarded {gs : List (Nat → HostOp)} (hgs : ∀ g ∈ gs, Passes s g) (h : Ends n ops s o) :
    Ends (gs.length + n) (guarded gs ops) s o := by
  induction gs with
  | nil => exact h.mono (Nat.le_add_left ..)
  | cons g gs ih =>
    obtain ⟨hg, hgs⟩ := List.forall_mem_cons.mp hgs
    rw [guarded_cons, List.length_cons, Nat.add_comm _ 1, Nat.add_assoc]
    exact ends_of_runs (.single (hg _)) (ih hgs)

/-- A command of HOST-APP whose operands are legal and whose tests pass. -/
theorem command_ends {legal : Bool} {gs : List (Nat → HostOp)} (hr : Ready s) (happ : App s)
    (hlegal : legal = true) (hgs : ∀ g ∈ gs, Passes s g) (h : Ends n ops s o) (hn : gs.length + n ≤ 64) :
    command legal gs ops s = o := by
  have hnothing : guarded gs ops ++ s.app.todo = guarded gs ops := by rw [todo_of_ready hr happ, List.append_nil]
  obtain ⟨-, hquantum⟩ := hr
  rw [command_run hlegal]
  exact (hnothing ▸ ends_guarded hgs h).runHost happ (hn.trans hquantum)

end Ends

/-! ## One turn of a wait (44_transfer_engine.md R267) -/

section Waits

variable {n i : Nat} {w : Wait} {s : State} {o : Out} {inPoll : Bool}

theorem budgetSpent_iff (s : State) (w : Wait) :
    budgetSpent s.cfg.timeoutStrict s.tick w.t0 w.budget = true ↔ Expired s w := by
  unfold budgetSpent Expired
  cases s.cfg.timeoutStrict <;> simp

/-- The condition holds at this read of the status. -/
theorem ends_wait_met (hmet : waitMet w.kind (s.chan w.ch).csr = true)
    (h : Ends n (metOps w.ch w.kind (s.chan w.ch).csr) s o) : Ends (n + 1) [.waitRead w] s o :=
  ends_go (by simp [runOp, hmet]) h

theorem runOp_waitRead_not (hmet : waitMet w.kind (s.chan w.ch).csr = false) :
    runOp (.waitRead w) s = .go [.waitTick w (s.chan w.ch).csr] s := by simp [runOp, hmet]

/-- The condition fails within the budget: the other agents move. -/
theorem ends_wait_on (hmet : waitMet w.kind (s.chan w.ch).csr = false) (hbudget : ¬ Expired s w) :
    Ends 2 [.waitRead w] s (.next { s with app := { s.app with todo := [.waitRead w] } }) := by
  rw [← budgetSpent_iff, Bool.not_eq_true] at hbudget
  exact ends_go (runOp_waitRead_not hmet) (ends_yield (by simp [runOp, hbudget]))

/-- The condition fails past the budget. -/
theorem ends_wait_expired (hmet : waitMet w.kind (s.chan w.ch).csr = false) (hexpired : Expired s w)
    (h : Ends n (expiredOps w.ch w.kind (s.chan w.ch).csr) s o) : Ends (n + 2) [.waitRead w] s o := by
  rw [← budgetSpent_iff] at hexpired
  exact ends_go (runOp_waitRead_not hmet) (ends_go (by simp [runOp, hexpired]) h)

/-- A wait that begins now has expired when its budget is 0 and the expiry test is not strict. -/
theorem expired_now_iff (s : State) (i : Nat) (k : WaitKind) (budget : Word) :
    Expired s ⟨i, k, s.tick, budget⟩ ↔ ¬ hasBudget s budget := by
  unfold Expired hasBudget
  cases s.cfg.timeoutStrict <;> simp

theorem ends_waitStart {k : WaitKind} {budget : Word} (h : Ends n [.waitRead ⟨i, k, s.tick, budget⟩] s o) :
    Ends (n + 1) [.waitStart i k budget] s o := ends_go rfl h

theorem waitTurn_channel {q : Nat} {rest : List Turn} (hw : WaitTurn s w q rest) : w.ch < s.chans.length := by
  obtain ⟨-, -, -, -, hch⟩ := hw
  exact hch

/-- HOST-APP goes on with its wait. -/
theorem step_waitTurn {q : Nat} {rest : List Turn} (hw : WaitTurn s w q rest)
    (h : Ends n [.waitRead w] { s with agenda := rest, quantum := q } o) (hn : n ≤ 64) : step s = o := by
  obtain ⟨hagenda, hq, hisr, htodo, -⟩ := hw
  have hturn : runTurn (.app q) { s with agenda := rest } = runHost [] { s with agenda := rest, quantum := q } := by
    simp [runTurn, hisr]
  rw [step_of_agenda hagenda, hturn]
  exact Ends.runHost (by rwa [← htodo] at h) hisr (hn.trans hq)

/-- A turn in which a wait goes on changes nothing but the schedule. -/
theorem step_wait_on {q : Nat} {rest : List Turn} (hw : WaitTurn s w q rest)
    (hmet : waitMet w.kind (s.chan w.ch).csr = false) (hbudget : ¬ Expired s w) :
    step s = .next { s with agenda := rest, quantum := q } := by
  have hon := step_waitTurn hw (ends_wait_on (s := { s with agenda := rest, quantum := q }) hmet hbudget) (by decide)
  obtain ⟨-, -, -, htodo, -⟩ := hw
  rw [hon, ← htodo]

/-! ### The wait of `suspend` (R268) -/

theorem ends_suspend_met (hk : w.kind = .suspend) (hw : w.ch < s.chans.length)
    (hsuspf : (s.chan w.ch).csr.flags.suspf = true) :
    Ends 3 [.waitRead w] s
      (repliedAt (released s) w.ch .ok fun c => { c with h := { c.h with state := .suspend } }) := by
  refine ends_wait_met (by rw [hk]; exact hsuspf) ?_
  rw [hk]
  exact (acts_setState .suspend).ends_replied hw .ok

theorem ends_suspend_idle (hk : w.kind = .suspend) (hw : w.ch < s.chans.length)
    (hsuspf : (s.chan w.ch).csr.flags.suspf = false) (hexpired : Expired s w) (hidle : (s.chan w.ch).csr.idle = true) :
    Ends 5 [.waitRead w] s (repliedAt (released s) w.ch .error resetToIdle) := by
  refine ends_wait_expired (by rw [hk]; exact hsuspf) hexpired ?_
  rw [hk, expiredOps, if_pos hidle]
  exact acts_resetToIdle.ends_replied hw .error

theorem ends_suspend_expired (hk : w.kind = .suspend) (hsuspf : (s.chan w.ch).csr.flags.suspf = false)
    (hexpired : Expired s w) (hidle : (s.chan w.ch).csr.idle = false) :
    Ends 3 [.waitRead w] s (.next ((released s).answer (plainReply .error))) := by
  refine ends_wait_expired (by rw [hk]; exact hsuspf) hexpired ?_
  rw [hk, expiredOps, if_neg (Bool.eq_false_iff.mp hidle)]
  exact ends_ret _ s

/-! ### The wait of `abort`, alone or inside a poll (R273, R274, R279) -/

theorem abortEnd_ends (hi : i < s.chans.length) (inPoll : Bool) (r : Result) :
    Ends 4 (abortEnd i inPoll r) s (repliedAt (released s) i (if inPoll then .timeout else r) resetToIdle) :=
  acts_clearToIdle.ends_replied hi _

theorem ends_abort_met (hk : w.kind = .abort inPoll) (hw : w.ch < s.chans.length)
    (h : (s.chan w.ch).csr.flags.suspf = true ∨ (s.chan w.ch).csr.idle = true) :
    Ends 5 [.waitRead w] s (repliedAt (released s) w.ch (if inPoll then .timeout else .ok) resetToIdle) := by
  refine ends_wait_met (by rw [hk]; exact Bool.or_eq_true_iff.mpr h) ?_
  rw [hk]
  exact abortEnd_ends hw inPoll .ok

theorem abort_waitMet_false (hk : w.kind = .abort inPoll) (hsuspf : (s.chan w.ch).csr.flags.suspf = false)
    (hidle : (s.chan w.ch).csr.idle = false) : waitMet w.kind (s.chan w.ch).csr = false := by
  rw [hk]
  exact Bool.or_eq_false_iff.mpr ⟨hsuspf, hidle⟩

theorem ends_abort_expired (hk : w.kind = .abort inPoll) (hw : w.ch < s.chans.length)
    (hsuspf : (s.chan w.ch).csr.flags.suspf = false) (hidle : (s.chan w.ch).csr.idle = false) (hexpired : Expired s w) :
    Ends 6 [.waitRead w] s (repliedAt (released s) w.ch (if inPoll then .timeout else .error) resetToIdle) := by
  refine ends_wait_expired (abort_waitMet_false hk hsuspf hidle) hexpired ?_
  rw [hk]
  exact abortEnd_ends hw inPoll .error

/-! ### `abort` from its idle test on, alone or inside a poll (R273, R279) -/

theorem ends_abortIdle_idle (inPoll : Bool) (hidle : (s.chan i).csr.idle = true) :
    Ends 2 [.abortIdle i inPoll] s
      (.next ((released s).answer (plainReply (if inPoll then .timeout else .error)))) := by
  refine ends_go (t := s) (ops := abortOps i inPoll true s.cfg.abortTimeout) (by simp [runOp, hidle]) ?_
  exact ends_ret _ s

/-- The wait that an abort of channel `i` begins now. -/
def abortWait (s : State) (i : Nat) (inPoll : Bool) : Wait := ⟨i, .abort inPoll, s.tick, s.cfg.abortTimeout⟩

theorem ends_abortIdle_wait (hi : i < s.chans.length) (hidle : (s.chan i).csr.idle = false)
    (h : Ends n [.waitRead (abortWait s i inPoll)] (s.onChan i aborting) o) :
    Ends (n + 4) [.abortIdle i inPoll] s o := by
  refine ends_go (t := s) (ops := abortOps i inPoll false s.cfg.abortTimeout) (by simp [runOp, hidle]) ?_
  refine (ends_of_runs (acts_aborting s hi) (ends_waitStart h)).mono ?_
  simp only [List.length_cons, List.length_nil]
  omega

variable (hi : i < s.chans.length) (hidle : (s.chan i).csr.idle = false)
include hi hidle

/-- Already suspended: the wait ends at its first read. -/
theorem ends_abortIdle_suspended (inPoll : Bool) (hsuspf : (s.chan i).csr.flags.suspf = true) :
    Ends 9 [.abortIdle i inPoll] s (repliedAt (released s) i (if inPoll then .timeout else .ok) resetToIdle) := by
  have hcsr : ((s.onChan i aborting).chan i).csr = (s.chan i).csr := csr_onChan hi rfl
  have hmet := ends_abort_met (w := abortWait s i inPoll) rfl (by rwa [State.onChan_length])
    (.inl ((congrArg (·.flags.suspf) hcsr).trans hsuspf))
  rw [abortWait, repliedAt_onChan _ hi] at hmet
  exact ends_abortIdle_wait hi hidle hmet

theorem aborting_waitMet_false (hsuspf : (s.chan i).csr.flags.suspf = false) :
    waitMet (abortWait s i inPoll).kind ((s.onChan i aborting).chan i).csr = false := by
  rw [csr_onChan hi rfl]
  exact Bool.or_eq_false_iff.mpr ⟨hsuspf, hidle⟩

/-- The budget is spent at once. -/
theorem ends_abortIdle_expired (inPoll : Bool) (hsuspf : (s.chan i).csr.flags.suspf = false)
    (hbudget : ¬ hasBudget s s.cfg.abortTimeout) :
    Ends 10 [.abortIdle i inPoll] s (repliedAt (released s) i (if inPoll then .timeout else .error) resetToIdle) := by
  have hend := ends_wait_expired (aborting_waitMet_false (inPoll := inPoll) hi hidle hsuspf)
    ((expired_now_iff ..).mpr hbudget) (abortEnd_ends (by rwa [State.onChan_length]) inPoll .error)
  rw [abortWait, repliedAt_onChan _ hi] at hend
  exact ends_abortIdle_wait hi hidle hend

theorem ends_abortIdle_on (inPoll : Bool) (hsuspf : (s.chan i).csr.flags.suspf = false)
    (hbudget : hasBudget s s.cfg.abortTimeout) :
    Ends 6 [.abortIdle i inPoll] s (.next { s.onChan i aborting with
      app := { s.app with todo := [.waitRead (abortWait s i inPoll)] } }) := by
  refine ends_abortIdle_wait hi hidle (ends_wait_on (aborting_waitMet_false hi hidle hsuspf) ?_)
  exact (expired_now_iff ..).not.mpr (not_not_intro hbudget)

end Waits

/-- Settles O30: the four outcomes of one read of the status, in the turn of the schedule. -/
theorem suspendWaitStep : Obligations.SuspendWaitStep := by
  unfold Obligations.SuspendWaitStep
  intro s w q rest hw hk c
  have hch := waitTurn_channel hw
  exact ⟨fun hsuspf => step_waitTurn hw (ends_suspend_met hk hch hsuspf) (by decide),
    fun hsuspf hbudget => step_wait_on hw (by rw [hk]; exact hsuspf) hbudget,
    fun hsuspf hexpired hidle => step_waitTurn hw (ends_suspend_idle hk hch hsuspf hexpired hidle) (by decide),
    fun hsuspf hexpired hidle => step_waitTurn hw (ends_suspend_expired hk hsuspf hexpired hidle) (by decide)⟩

/-- Settles O31: the three outcomes of one read of the status, in the turn of the schedule. -/
theorem abortWaitStep : Obligations.AbortWaitStep := by
  unfold Obligations.AbortWaitStep
  intro s w q rest inPoll hw hk c
  have hch := waitTurn_channel hw
  exact ⟨fun h => step_waitTurn hw (ends_abort_met hk hch h) (by decide),
    fun hsuspf hidle hbudget => step_wait_on hw (abort_waitMet_false hk hsuspf hidle) hbudget,
    fun hsuspf hidle hexpired => step_waitTurn hw (ends_abort_expired hk hch hsuspf hidle hexpired) (by decide)⟩

/-! ## `suspend`, `resume` and `abort` at their issue (44_transfer_engine.md R268 to R275) -/

section Commands

variable {s : State} {ch : ChId} {o : Out} {n : Nat}

theorem operands_app (hch : Has s ch) (happ : App s) : (s.hasChan ch.toNat && s.fromApp) = true := by
  have hisr : s.isr = none := happ
  simp [State.hasChan, State.fromApp, hch, hisr]

theorem passes_active (hlife : life s ch = .active) : ∀ g ∈ [stateIn ch [.active]], Passes s g :=
  passes_stateIn (by rw [hlife]; rfl)

theorem passes_abortable (hlife : life s ch = .idle ∨ life s ch = .active) :
    ∀ g ∈ [stateIn ch [.idle, .active]], Passes s g :=
  passes_stateIn (by rcases hlife with h | h <;> rw [h] <;> rfl)

/-- The wait that `suspend` begins after its request (R268). -/
def suspendWait (s : State) (ch : ChId) : Wait := ⟨ch.toNat, .suspend, s.tick, 5⟩

theorem exec_suspend (hr : Ready s) (hch : Has s ch) (hlife : life s ch = .active) (happ : App s)
    (h : Ends n [.waitRead (suspendWait s ch)] (s.onChan ch.toNat suspending) o)
    (hn : n ≤ 61) : exec (.suspend ch) s = o := by
  refine command_ends hr happ (operands_app hch happ) (passes_active hlife)
    (ends_of_runs (acts_suspReq s hch) (ends_waitStart h)) ?_
  simp only [List.length_cons, List.length_nil]
  omega

theorem exec_abort (hr : Ready s) (hch : Has s ch) (hlife : life s ch = .idle ∨ life s ch = .active) (happ : App s)
    (h : Ends n [.abortIdle ch.toNat false] s o) (hn : n ≤ 63) : exec (.abort ch) s = o := by
  refine command_ends hr happ (operands_app hch happ) (passes_abortable hlife) h ?_
  rw [List.length_singleton]
  omega

/-- A resume with a request pending, or with none. -/
theorem acts_resume (i : Nat) : Acts i [.resume i, .setState i .active]
    fun c => onHandle (fun h => { h with state := .active }) (resumed c) :=
  have hresume : Acts i [.resume i] resumed := .congr (.single fun _ => rfl) chResume_eq
  hresume.cons (acts_setState .active)

/-- `abort_it` of a channel that is not idle. -/
theorem acts_abortIt (i : Nat) : Acts i [.setState i .abort, .ieSet i flagSUSPF, .suspReq i]
    fun c => { c with
      ccr := { suspRequested c with ie := { c.ccr.ie with suspf := true } }
      h := { c.h with state := .abort } } :=
  ((acts_setState .abort).cons acts_suspReqIt).congr fun _ => rfl

/-- `abort_it` from its idle test on, as the idle test comes out (R275). -/
theorem exec_abortIt {t : State} (hr : Ready s) (hch : Has s ch) (hlife : life s ch = .idle ∨ life s ch = .active)
    (h : Runs n (abortItOps ch.toNat (s.chan ch.toNat).csr.idle) s t) (hn : n ≤ 62) (hisr : t.isr = s.isr)
    (htodo : t.app.todo = s.app.todo) : exec (.abortIt ch) s = .next t := by
  have hlegal : s.hasChan ch.toNat = true := decide_eq_true hch
  refine command_runs hr hlegal (passes_abortable hlife) (.op rfl h) ?_ hisr htodo
  rw [List.length_singleton]
  omega

end Commands

/-- Settles O27: a request or its withdrawal is one access, and `suspend` reads the status once in its own turn. -/
theorem suspendResult : Obligations.SuspendResult := by
  unfold Obligations.SuspendResult
  intro ch s hr hch
  have hlegal : s.hasChan ch.toNat = true := decide_eq_true hch
  refine ⟨fun hlife => ?suspendIt, fun hlife happ hsuspf => ?met, fun hlife happ hsuspf => ?waits,
    fun hlife hsusp => ?resume, fun hlife hsusp => ?nothing⟩
  case suspendIt => exact command_acts hr hch hlegal (passes_active hlife) acts_suspReqIt (by simp) .ok
  case met =>
    have hcsr : ((s.onChan ch.toNat suspending).chan ch.toNat).csr = (s.chan ch.toNat).csr := csr_onChan hch rfl
    have hmet := ends_suspend_met (w := suspendWait s ch) rfl (by rwa [State.onChan_length])
      ((congrArg (·.flags.suspf) hcsr).trans hsuspf)
    rw [suspendWait, repliedAt_onChan _ hch, released_of_ready hr happ] at hmet
    exact exec_suspend hr hch hlife happ hmet (by decide)
  case waits =>
    have hcsr : ((s.onChan ch.toNat suspending).chan ch.toNat).csr = (s.chan ch.toNat).csr := csr_onChan hch rfl
    have hbudget : ¬ Expired (s.onChan ch.toNat suspending) (suspendWait s ch) :=
      (expired_now_iff ..).not.mpr (not_not_intro (.inr (by decide)))
    exact exec_suspend hr hch hlife happ
      (ends_wait_on ((congrArg (·.flags.suspf) hcsr).trans hsuspf) hbudget) (by decide)
  case resume | nothing =>
    have hallowed : [Life.suspend].contains (life s ch) = true := by rw [hlife]; rfl
    have hresume := command_acts hr hch hlegal (passes_stateIn hallowed) (acts_resume ch.toNat) (by simp) .ok
    exact hresume.trans (okAfter_congr (by simp [resumed, hsusp, onHandle]))

/-- Settles O28: the idle test first, then the first read of the status in the command's own turn. -/
theorem abortResult : Obligations.AbortResult := by
  unfold Obligations.AbortResult
  intro ch s hr hch hlife
  have hreleased (happ : App s) := released_of_ready hr happ
  refine ⟨fun hidle => ⟨?itIdle, fun happ => ?idle⟩, fun hidle => ⟨?it, fun happ hsuspf => ?suspended,
    fun happ hsuspf hbudget => ?waits, fun happ hsuspf hbudget => ?expired⟩⟩
  case itIdle =>
    refine exec_abortIt (n := 1) hr hch hlife ?_ (by decide) (State.answer_isr ..) (State.answer_todo ..)
    rw [hidle]
    exact .single (runOp_ret ..)
  case idle =>
    have hend := ends_abortIdle_idle false hidle
    rw [hreleased happ] at hend
    exact exec_abort hr hch hlife happ hend (by decide)
  case it =>
    refine exec_abortIt (n := 4) hr hch hlife ?_ (by decide) (by simp) (by simp)
    rw [hidle]
    exact (acts_abortIt ch.toNat s hch).append (.single (runOp_ret ..))
  case suspended =>
    have hend := ends_abortIdle_suspended hch hidle false hsuspf
    rw [hreleased happ] at hend
    exact exec_abort hr hch hlife happ hend (by decide)
  case waits => exact exec_abort hr hch hlife happ (ends_abortIdle_on hch hidle false hsuspf hbudget) (by decide)
  case expired =>
    have hend := ends_abortIdle_expired hch hidle false hsuspf hbudget
    rw [hreleased happ] at hend
    exact exec_abort hr hch hlife happ hend (by decide)

/-! ## `poll_for_transfer` (44_transfer_engine.md R277 to R279) -/

section Poll

variable {n i : Nat} {w : Wait} {s : State} {o : Out} {ch : ChId} {l : Level}

theorem errorsOf_any (f : FlagSet) : flagsAny (errorsOf f) = errorSet f := by
  simp [flagsAny, errorsOf, flagsAnd, flagsMap2, errFlags, errorSet]

theorem errbits_errorsOf (f : FlagSet) : errbits (errorsOf f) = errorBits f := by
  have hbits : ∀ dte use ule tov : Bool, errbits ⟨false, false, false, dte, use, ule, tov⟩ =
      errorBits ⟨false, false, false, dte, use, ule, tov⟩ := by decide
  have herrors : errorsOf f = ⟨false, false, false, f.dte, f.use, f.ule, f.tov⟩ := by
    simp [errorsOf, flagsAnd, flagsMap2, errFlags]
  rw [herrors]
  exact hbits f.dte f.use f.ule f.tov

theorem poll_waitMet (hk : w.kind = .poll l) (sr : Csr) :
    waitMet w.kind sr = (errorSet sr.flags || wanted l sr.flags) := by
  rw [hk, ← errorsOf_any]
  cases l <;> rfl

theorem poll_waitMet_false {sr : Csr} (hk : w.kind = .poll l) (herror : errorSet sr.flags = false)
    (hwanted : wanted l sr.flags = false) : waitMet w.kind sr = false := by
  rw [poll_waitMet hk, herror, hwanted]
  rfl

/-- The wait that `poll_for_transfer` begins now (R277). -/
def pollWait (s : State) (ch : ChId) (l : Level) (timeout : Word) : Wait := ⟨ch.toNat, .poll l, s.tick, timeout⟩

theorem exec_poll {timeout : Word} (hr : Ready s) (hch : Has s ch) (happ : App s) (hlife : life s ch = .active)
    (hmode : (s.chan ch.toNat).h.mode ≠ .linkedListCircular)
    (h : Ends n [.waitRead (pollWait s ch l timeout)] s o) (hn : n ≤ 61) :
    exec (.pollForTransfer ch l timeout) s = o := by
  have hallowed : [Mode.direct, .linkedListLinear].contains (s.chan ch.toNat).h.mode = true := by
    cases hm : (s.chan ch.toNat).h.mode
    case linkedListCircular => exact absurd hm hmode
    all_goals rfl
  have hguards : ∀ g ∈ [stateIn ch [.active], modeIn ch [.direct, .linkedListLinear]], Passes s g :=
    List.forall_mem_cons.mpr ⟨passes_active hlife _ (List.mem_singleton_self _),
      List.forall_mem_singleton.mpr (passes_require hallowed)⟩
  refine command_ends hr happ (operands_app hch happ) hguards (ends_waitStart h) ?_
  simp only [List.length_cons, List.length_nil]
  omega

/-- `H.LastError` joined with the errors of the status (10_state.md R40). -/
theorem runs_orError (s : State) (i : Nat) (e : BitVec 4) : Runs 2 [.orError i e] s
    (s.onChan i (onHandle fun h => { h with lastError := lastErrorTo s (h.lastError ||| e) h })) := by
  refine .op rfl (.single ?_)
  rw [runOp, chSetError_eq]
  rfl

theorem metOps_poll_error {sr : Csr} (h : errorSet sr.flags = true) : metOps i (.poll l) sr =
    [.orError i (errorBits sr.flags), .chReset i, .flagClear i allFlags, .setState i .idle,
      .ret (plainReply .error)] := by
  rw [← errorsOf_any] at h
  rw [← errbits_errorsOf]
  exact if_pos h

theorem metOps_poll_met {sr : Csr} (h : errorSet sr.flags = false) : metOps i (.poll l) sr =
    match l with
    | .halfComplete => [.flagClear i flagHT, .ret (plainReply .ok)]
    | .fullComplete => [.flagClear i (flagsOr flagHT flagTC), .setState i .idle, .ret (plainReply .ok)] := by
  rw [← errorsOf_any] at h
  cases l <;> exact if_neg (Bool.eq_false_iff.mp h)

theorem ends_poll_error (hk : w.kind = .poll l) (hw : w.ch < s.chans.length)
    (herror : errorSet (s.chan w.ch).csr.flags = true) :
    Ends 7 [.waitRead w] s (repliedAt (released s) w.ch .error (pollFailed s)) := by
  refine ends_wait_met (by rw [poll_waitMet hk, herror]; rfl) ?_
  rw [hk, metOps_poll_error herror]
  have hruns := runs_orError s w.ch (errorBits (s.chan w.ch).csr.flags)
  have hend := ends_of_runs hruns (acts_clearToIdle.ends_replied (by rwa [State.onChan_length]) .error)
  rw [repliedAt_onChan _ hw] at hend
  have hfailed : repliedAt (released s) w.ch .error (pollFailed s) = _ := repliedAt_congr rfl
  exact hfailed ▸ hend

theorem flagsDiff_ht (f : FlagSet) : flagsDiff f flagHT = { f with ht := false } := by
  simp [flagsDiff, flagsMap2, flagHT, FlagSet.empty]

theorem flagsDiff_ht_tc (f : FlagSet) : flagsDiff f (flagsOr flagHT flagTC) = { f with ht := false, tc := false } := by
  simp [flagsDiff, flagsOr, flagsMap2, flagHT, flagTC, FlagSet.empty]

theorem acts_clearHalf : Acts i [.flagClear i flagHT] (pollMet .halfComplete) :=
  .congr (f := chFlagClear flagHT) (.single fun _ => rfl) fun c => by rw [chFlagClear, flagsDiff_ht]

theorem acts_clearFull : Acts i [.flagClear i (flagsOr flagHT flagTC), .setState i .idle] (pollMet .fullComplete) :=
  .congr (.cons (f := chFlagClear (flagsOr flagHT flagTC)) (.single fun _ => rfl) (acts_setState .idle)) fun c => by
    rw [chFlagClear, flagsDiff_ht_tc]
    rfl

theorem ends_poll_met (hk : w.kind = .poll l) (hw : w.ch < s.chans.length)
    (herror : errorSet (s.chan w.ch).csr.flags = false) (hwanted : wanted l (s.chan w.ch).csr.flags = true) :
    Ends 4 [.waitRead w] s (repliedAt (released s) w.ch .ok (pollMet l)) := by
  refine ends_wait_met (n := 3) (by rw [poll_waitMet hk, hwanted, Bool.or_true]) ?_
  rw [hk, metOps_poll_met herror]
  cases l with
  | halfComplete => exact (acts_clearHalf.ends_replied hw .ok).mono (by simp)
  | fullComplete => exact acts_clearFull.ends_replied hw .ok

/-! ### The abort inside an expired poll (R277, R279) -/

/-- The inner abort accepts the state of the handle. -/
abbrev Abortable (s : State) (i : Nat) : Prop := (s.chan i).h.state = .idle ∨ (s.chan i).h.state = .active

theorem not_abortable_iff : ¬ Abortable s i ↔ (s.chan i).h.state ≠ .idle ∧ (s.chan i).h.state ≠ .active := not_or

theorem pollExpires_violation (h : ¬ Abortable s i) : pollExpires s i =
    match s.cfg.build with
    | .checked => .next (s.answer (plainReply .timeout))
    | .debug => .fault .precondition
    | .unchecked => .refused .uncheckedViolation := by
  rw [not_abortable_iff] at h
  exact (if_pos h).trans (by cases s.cfg.build <;> rfl)

variable (h : Abortable s i)
include h

theorem pollExpires_idle (hidle : (s.chan i).csr.idle = true) :
    pollExpires s i = .next (s.answer (plainReply .timeout)) :=
  (if_neg (mt not_abortable_iff.mpr (not_not_intro h))).trans (if_pos hidle)

theorem pollExpires_busy (hidle : (s.chan i).csr.idle = false) : pollExpires s i =
    if (s.chan i).csr.flags.suspf ∨ ¬ hasBudget s s.cfg.abortTimeout then repliedAt s i .timeout resetToIdle
    else .next { s.onChan i aborting with
      app := { s.app with todo := [.waitRead (abortWait s i true)] } } :=
  (if_neg (mt not_abortable_iff.mpr (not_not_intro h))).trans (if_neg (Bool.eq_false_iff.mp hidle))

theorem pollExpires_reset (hidle : (s.chan i).csr.idle = false)
    (hend : (s.chan i).csr.flags.suspf = true ∨ ¬ hasBudget s s.cfg.abortTimeout) :
    pollExpires s i = repliedAt s i .timeout resetToIdle := (pollExpires_busy h hidle).trans (if_pos hend)

theorem pollExpires_waits (hidle : (s.chan i).csr.idle = false) (hsuspf : (s.chan i).csr.flags.suspf = false)
    (hbudget : hasBudget s s.cfg.abortTimeout) : pollExpires s i =
      .next { s.onChan i aborting with app := { s.app with todo := [.waitRead (abortWait s i true)] } } :=
  (pollExpires_busy h hidle).trans (if_neg (not_or.mpr ⟨Bool.eq_false_iff.mp hsuspf, not_not_intro hbudget⟩))

omit h

theorem runOp_abortGuard (h : Abortable s i) : runOp (.abortGuard i) s = .go [.abortIdle i true] s := by
  rcases h with h | h <;> simp [runOp, h]

theorem runOp_abortGuard_fails (h : ¬ Abortable s i) :
    runOp (.abortGuard i) s = innerViolation (.go [.ret (plainReply .timeout)] s) s := by
  cases hl : (s.chan i).h.state
  case idle => exact absurd (.inl hl) h
  case active => exact absurd (.inr hl) h
  all_goals simp [runOp, hl]

/-- A state that the inner abort does not accept is a violation of that command (00_scope.md R11). -/
theorem ends_abortGuard_violation (h : ¬ Abortable s i) :
    Ends 2 [.abortGuard i] s (pollExpires (released s) i) := by
  have hop := runOp_abortGuard_fails h
  have hbuild : (released s).cfg.build = s.cfg.build := rfl
  rw [pollExpires_violation (s := released s) h, hbuild]
  unfold innerViolation at hop
  cases hb : s.cfg.build with
  | checked => rw [hb] at hop; exact ends_go hop (ends_ret _ s)
  | debug => rw [hb] at hop; exact ends_fault hop
  | unchecked => rw [hb] at hop; exact ends_refused hop

/-- The inner abort of an expired poll: it violates, finds idle hardware, ends in a reset, or waits (R273, R279). -/
theorem ends_abortGuard (hi : i < s.chans.length) : Ends 11 [.abortGuard i] s (pollExpires (released s) i) := by
  by_cases h : Abortable s i
  case neg => exact (ends_abortGuard_violation h).mono (by decide)
  refine ends_go (n := 10) (runOp_abortGuard h) ?_
  cases hidle : (s.chan i).csr.idle
  case true =>
    rw [pollExpires_idle (s := released s) h hidle]
    exact (ends_abortIdle_idle true hidle).mono (by decide)
  cases hsuspf : (s.chan i).csr.flags.suspf
  case true =>
    rw [pollExpires_reset (s := released s) h hidle (.inl hsuspf)]
    exact (ends_abortIdle_suspended hi hidle true hsuspf).mono (by decide)
  by_cases hbudget : hasBudget s s.cfg.abortTimeout
  · rw [pollExpires_waits (s := released s) h hidle hsuspf hbudget]
    exact (ends_abortIdle_on hi hidle true hsuspf hbudget).mono (by decide)
  · rw [pollExpires_reset (s := released s) h hidle (.inr hbudget)]
    exact ends_abortIdle_expired hi hidle true hsuspf hbudget

theorem ends_poll_expired (hk : w.kind = .poll l) (hw : w.ch < s.chans.length)
    (herror : errorSet (s.chan w.ch).csr.flags = false) (hwanted : wanted l (s.chan w.ch).csr.flags = false)
    (hexpired : Expired s w) : Ends 13 [.waitRead w] s (pollExpires (released s) w.ch) := by
  refine ends_wait_expired (poll_waitMet_false hk herror hwanted) hexpired ?_
  rw [hk]
  exact ends_abortGuard hw

end Poll

/-- Settles O29: the first read of the status, in the command's own turn. -/
theorem pollResult : Obligations.PollResult := by
  unfold Obligations.PollResult
  intro ch s l timeout hr hch happ hlife hmode f
  have hreleased := released_of_ready hr happ
  refine ⟨fun herror => ?error, fun herror hwanted => ?met, fun herror hwanted hbudget => ?waits,
    fun herror hwanted hbudget => ?expired⟩
  case error =>
    have hend := ends_poll_error (w := pollWait s ch l timeout) rfl hch herror
    rw [hreleased] at hend
    exact exec_poll hr hch happ hlife hmode hend (by decide)
  case met =>
    have hend := ends_poll_met (w := pollWait s ch l timeout) rfl hch herror hwanted
    rw [hreleased] at hend
    exact exec_poll hr hch happ hlife hmode hend (by decide)
  case waits =>
    have hend := ends_wait_on (w := pollWait s ch l timeout) (poll_waitMet_false rfl herror hwanted)
      ((expired_now_iff ..).not.mpr (not_not_intro hbudget))
    rw [waitsWith, onChan_id]
    exact exec_poll hr hch happ hlife hmode hend (by decide)
  case expired =>
    have hend := ends_poll_expired (w := pollWait s ch l timeout) rfl hch herror hwanted
      ((expired_now_iff ..).mpr hbudget)
    rw [hreleased] at hend
    exact exec_poll hr hch happ hlife hmode hend (by decide)

/-- Settles O32: the outcomes of one read of the status, in the turn of the schedule. -/
theorem pollWaitStep : Obligations.PollWaitStep := by
  unfold Obligations.PollWaitStep
  intro s w q rest l hw hk f
  have hch := waitTurn_channel hw
  exact ⟨fun herror => step_waitTurn hw (ends_poll_error hk hch herror) (by decide),
    fun herror hwanted => step_waitTurn hw (ends_poll_met hk hch herror hwanted) (by decide),
    fun herror hwanted hbudget => step_wait_on hw (poll_waitMet_false hk herror hwanted) hbudget,
    fun herror hwanted hexpired => step_waitTurn hw (ends_poll_expired hk hch herror hwanted hexpired) (by decide)⟩

end Sys2Proof.Transfers
end

section
/-! The channel engine (45_channel_engine.md): the rows of a stopped channel (O47), the suspend acknowledge and the
trigger overrun (O48), link steps (O41, O42), the block end (O46), and data steps, admitted or refused (O43 to O45). -/

namespace Sys2Proof.ChannelEngine

open Sys2Proof.Machine Sys2Proof.Claims Sys2Proof.RegisterFile Sys2Proof.EngineFrames

/-! ## Rows that are not enabled (45_channel_engine.md R300, R327; log 12) -/

section Stopped

variable {s : State} {ch : ChId}

theorem running_eq_false_iff {c : Channel} : running c = false ↔ c.ccr.en = false ∨ c.hid.paused = true := by
  cases hen : c.ccr.en <;> simp [running, hen]

theorem grantable_stopped {i : Nat} (h : running (s.chan i) = false) : grantable s i = false := by
  simp [grantable, wants, h]

theorem dataEnabled_stopped {i : Nat} (h : running (s.chan i) = false) : dataEnabled s i = false := by
  simp [dataEnabled, grantable_stopped h]

theorem linkEnabled_stopped {i : Nat} (h : running (s.chan i) = false) : linkEnabled s i = false := by
  simp [linkEnabled, grantable_stopped h]

theorem takeData_stopped {i : Nat} (h : running (s.chan i) = false) : takeData i s = s := by
  simp [takeData, dataEnabled_stopped h]

theorem takeLink_stopped {i : Nat} (h : running (s.chan i) = false) : takeLink i s = s := by
  simp [takeLink, linkEnabled_stopped h]

theorem execNode_stopped (upd : BitVec 8) (h : running (s.chan ch.toNat) = false) : execNode ch upd s = s := by
  simp [execNode, takeLink_stopped h]

theorem execAGrant_stopped (h : running (s.chan ch.toNat) = false) : execAGrant ch s = .next s := by
  simp [execAGrant, takeLink_stopped h, takeData_stopped h]

theorem execEBlockEnd_stopped (h : running (s.chan ch.toNat) = false) : execEBlockEnd ch s = .next s := by
  simp [execEBlockEnd, partStep, h]

theorem execEComplete_stopped (h : running (s.chan ch.toNat) = false) : execEComplete ch s = .next s := by
  simp [execEComplete, partStep, h]

theorem execERaiseDte_stopped (h : running (s.chan ch.toNat) = false) : execERaiseDte ch s = .next s := by
  simp [execERaiseDte, dataEnabled_stopped h]

theorem execERaiseUle_stopped (h : running (s.chan ch.toNat) = false) : execERaiseUle ch s = .next s := by
  simp [execERaiseUle, linkEnabled_stopped h]

theorem execERaiseUse_stopped (h : running (s.chan ch.toNat) = false) : execERaiseUse ch s = .next s := by
  simp [execERaiseUse, linkEnabled_stopped h]

theorem execLinkLoad_stopped (h : running (s.chan ch.toNat) = false) : execLinkLoad ch s = .next s := by
  simp [execLinkLoad, h]

end Stopped

/-- Settles O47: the condition of every row of the list needs a running channel. -/
theorem stoppedChannelDoesNotMove : Obligations.StoppedChannelDoesNotMove := by
  unfold Obligations.StoppedChannelDoesNotMove
  intro ch upd s hstopped i hi
  have hrun := running_eq_false_iff.mpr hstopped
  simp only [List.mem_append, List.mem_cons, List.not_mem_nil, or_false] at hi
  obtain hlink | hdata := hi
  · obtain rfl | rfl | hnode := hlink
    · exact congrArg _ (takeLink_stopped hrun)
    · exact execAGrant_stopped hrun
    · obtain rfl | rfl | rfl | rfl := hnode <;> exact congrArg _ (execNode_stopped upd hrun)
  · obtain rfl | rfl | rfl | rfl | rfl | rfl | rfl := hdata
    · exact congrArg _ (takeData_stopped hrun)
    · exact execEBlockEnd_stopped hrun
    · exact execEComplete_stopped hrun
    · exact execERaiseDte_stopped hrun
    · exact execERaiseUle_stopped hrun
    · exact execERaiseUse_stopped hrun
    · exact execLinkLoad_stopped hrun

/-! ## The suspend acknowledge and the trigger overrun (45_channel_engine.md R324, R326) -/

theorem chAck_eq (c : Channel) : chAck c =
    { c with
      csr := { c.csr with flags := { c.csr.flags with suspf := true } }
      hid := { c.hid with paused := true } } := by
  simp [chAck, chRaise, flagsOr, flagsMap2, flagSUSPF, FlagSet.empty]

theorem chRaise_to (c : Channel) :
    chRaise flagTO c = { c with csr := { c.csr with flags := { c.csr.flags with tov := true } } } := by
  simp [chRaise, flagsOr, flagsMap2, flagTO, FlagSet.empty]

theorem triggerOn_iff {L : Layout} {c : Channel} :
    triggerOn L c = true ↔ Fld.trigPol.get L c.ctr2 = 1 ∨ Fld.trigPol.get L c.ctr2 = 2 := by
  simp [triggerOn]

/-- Settles O48: each row's condition, met and not met. -/
theorem ackAndOverrunResult : Obligations.AckAndOverrunResult := by
  unfold Obligations.AckAndOverrunResult
  intro ch s hch c pol
  have hhas : s.hasChan ch.toNat = true := decide_eq_true hch
  change (_ → _ → _ → execESuspAck ch s = _) ∧ (_ → execESuspAck ch s = _) ∧
    (_ → _ → _ → execERaiseTo ch s = _) ∧ (_ → execERaiseTo ch s = _)
  refine ⟨fun hen hsusp hpaused => ?acks, fun hnot => ?noAck, fun hen hpol hinput => ?overruns,
    fun hnot => ?noOverrun⟩
  case acks =>
    have hack : ackEnabled s ch.toNat = true := by simp [ackEnabled, hhas, c, hen, hsusp, hpaused]
    rw [execESuspAck, if_pos hack, funext chAck_eq]
  case noAck =>
    have hack : ackEnabled s ch.toNat = false := by
      rcases hnot with h | h | h <;> simp [ackEnabled, c, h]
    simp [execESuspAck, hack]
  case overruns =>
    have hover : overrunEnabled s ch.toNat = true := by
      simp [overrunEnabled, hhas, c, hen, hinput, triggerOn_iff.mpr hpol]
    rw [execERaiseTo, if_pos hover, funext chRaise_to]
  case noOverrun =>
    have hover : overrunEnabled s ch.toNat = false := by
      rcases hnot with h | h | h | h
      · simp [overrunEnabled, c, h]
      · simp [overrunEnabled, triggerOn, c, pol, h]
      · simp [overrunEnabled, triggerOn, c, pol, h]
      · simp [overrunEnabled, c, h]
    simp [execERaiseTo, hover]

/-! ## Link steps (45_channel_engine.md R316, R318) -/

section Link

variable {s : State} {ch : ChId}

/-- A link step taken: the full-complete event still due raised, nothing pending (R316, R318; log 16). -/
def eventDelivered (c : Channel) : Channel :=
  { c with
    csr := { c.csr with flags := { c.csr.flags with tc := c.csr.flags.tc || c.hid.tcDue } }
    hid := { c.hid with linkPending := false, tcDue := false } }

theorem eventDelivered_eq (c : Channel) :
    (let d := if c.hid.tcDue then chRaise flagTC { c with hid := { c.hid with tcDue := false } } else c
     { d with hid := { d.hid with linkPending := false } }) = eventDelivered c := by
  cases hdue : c.hid.tcDue with
  | true => simp [eventDelivered, hdue, chRaise, flagsOr, flagsMap2, flagTC, FlagSet.empty]
  | false => simp [eventDelivered, hdue]

/-- The block size and count restored from their copies (R316). -/
def restored (L : Layout) (c : Channel) : Channel :=
  { c with cbr1 := cbr1View L c (Fld.bndt.ins L (c.hid.blkReload.setWidth 32)
      (cbr1View L c (Fld.brc.ins L (c.hid.brcReload.setWidth 32) c.cbr1))) }

theorem restored_eq (L : Layout) (c : Channel) :
    setBndt L c.hid.blkReload.toNat (setBrc L c.hid.brcReload.toNat c) = restored L c := by
  simp only [setBndt, setBrc, linkWrite, BitVec.ofNat_toNat]
  rfl

/-- The node of a link step entered: the next fetch pending, the block begun, or USE (R303, R316, R323). -/
def nodeEntered (k : Cfg) (c : Channel) : Channel :=
  if bndtOf k.layout c = 0 then
    if c.cllr ≠ 0 ∧ Fld.uCbr1.test k.layout c.cllr = true then { c with hid := { c.hid with linkPending := true } }
    else stopped c { c.csr.flags with use := true }
  else if Valid k c then blockBegun k c
  else stopped c { c.csr.flags with use := true }

theorem nodeEntered_eq (k : Cfg) (c : Channel) :
    (if bndtOf k.layout c = 0 then
      if c.cllr ≠ 0 ∧ linkLoadsCbr1 k.layout c then { c with hid := { c.hid with linkPending := true } }
      else chRaiseFatal flagUSE c
    else if cfgValid k c then beginNode k c
    else chRaiseFatal flagUSE c) = nodeEntered k c := by
  simp only [chRaiseFatal_use, beginNode_eq, RegisterFile.cfgValid_iff]
  rfl

/-- After the load the due event is raised, CBR1 saved or restored, and the node entered. -/
theorem afterLoad_eq (k : Cfg) (loadsCbr1 : Bool) (c : Channel) : afterLoad k loadsCbr1 c = linked k loadsCbr1 c :=
  let d := eventDelivered c
  calc afterLoad k loadsCbr1 c
      = nodeEntered k (if loadsCbr1 then saveReload k.layout d
          else setBndt k.layout d.hid.blkReload.toNat (setBrc k.layout d.hid.brcReload.toNat d)) := by
        simp only [d]
        rw [← nodeEntered_eq, ← eventDelivered_eq]
        rfl
    _ = nodeEntered k (if loadsCbr1 then reloaded k.layout d else restored k.layout d) := by
        rw [saveReload_eq, restored_eq]
    _ = linked k loadsCbr1 c := rfl

theorem linkStep_fetchable (h : Fetchable s ch) :
    linkStep ch.toNat s = s.setChan ch.toNat
      (linked s.cfg (Fld.uCbr1.test s.cfg.layout (s.chan ch.toNat).cllr) (loaded s ch)) := by
  simp only [linkStep, linkLoad_fetchable h, afterLoad_eq]
  rfl

theorem linkStep_not_fetchable (h : ¬ Fetchable s ch) :
    linkStep ch.toNat s = s.onChan ch.toNat fun c => stopped c { c.csr.flags with ule := true } := by
  simp only [linkStep, linkLoad_not_fetchable h, chRaiseFatal_ule]
  rfl

theorem linkEnabled_pending {i : Nat} (h : linkEnabled s i = true) : (s.chan i).hid.linkPending = true := by
  simp only [linkEnabled, linkReady, Bool.and_eq_true] at h
  obtain ⟨-, ⟨-, hpending⟩, -⟩ := h
  exact hpending

theorem takeLink_enabled {i : Nat} (h : linkEnabled s i = true) : takeLink i s = linkStep i s := if_pos h

/-- The step, its grant and the rows of the selected node format are one link step (log 14, log 29). -/
theorem exec_linkSteps {i : Instr} (hi : i ∈ linkSteps ch (selected s ch)) (h : linkEnabled s ch.toNat = true) :
    exec i s = .next (linkStep ch.toNat s) := by
  have hnode : execNode ch (selected s ch) s = linkStep ch.toNat s := (if_pos rfl).trans (takeLink_enabled h)
  simp only [List.mem_cons, List.not_mem_nil, or_false] at hi
  obtain rfl | rfl | hformat := hi
  · exact congrArg _ (takeLink_enabled h)
  · change execAGrant ch s = _
    rw [execAGrant, if_pos (linkEnabled_pending h), takeLink_enabled h]
  · obtain rfl | rfl | rfl | rfl := hformat <;> exact congrArg _ hnode

theorem execERaiseUle_not_fetchable (h : linkEnabled s ch.toNat = true) (hfetch : ¬ Fetchable s ch) :
    execERaiseUle ch s = .next (linkStep ch.toNat s) := by
  simp [execERaiseUle, h, linkLoad_not_fetchable hfetch]

theorem execERaiseUle_fetchable (hfetch : Fetchable s ch) : execERaiseUle ch s = .next s := by
  simp [execERaiseUle, linkLoad_fetchable hfetch]

theorem execERaiseUse_not_fetchable (hfetch : ¬ Fetchable s ch) : execERaiseUse ch s = .next s := by
  simp [execERaiseUse, linkLoad_not_fetchable hfetch]

/-- `E.RAISE_USE` is the link step, when that step disables the channel (log 13). -/
theorem execERaiseUse_fetchable {d : Channel} (h : linkEnabled s ch.toNat = true) (hfetch : Fetchable s ch)
    (hstep : linkStep ch.toNat s = s.setChan ch.toNat d) :
    execERaiseUse ch s = .next (if d.ccr.en then s else s.setChan ch.toNat d) := by
  obtain ⟨hch, -⟩ := grantable_running (linkEnabled_grantable h)
  cases hen : d.ccr.en <;>
    simp [execERaiseUse, h, linkLoad_fetchable hfetch, hstep, State.chan_setChan_same s _ d hch, hen]

end Link

/-- Settles O41: the row is the link step, whose fetch succeeds. -/
theorem linkStepResult : Obligations.LinkStepResult := by
  unfold Obligations.LinkStepResult
  intro ch s i hi henabled hfetch
  rw [exec_linkSteps hi henabled, linkStep_fetchable hfetch]

/-- Settles O42: the link step whose fetch fails, and the two rows that raise an error flag. -/
theorem linkStepFails : Obligations.LinkStepFails := by
  unfold Obligations.LinkStepFails
  intro ch s henabled
  refine ⟨fun hfetch i hi => ?fails, fun hfetch => ?succeeds, execERaiseUse_not_fetchable⟩
  case fails =>
    rw [← linkStep_not_fetchable hfetch]
    obtain hi | rfl := hi
    · exact exec_linkSteps hi henabled
    · exact execERaiseUle_not_fetchable henabled hfetch
  case succeeds =>
    have huse := execERaiseUse_fetchable henabled hfetch (linkStep_fetchable hfetch)
    exact ⟨fun hen => huse.trans (by simp [hen]), fun hen => huse.trans (by simp [hen]),
      execERaiseUle_fetchable hfetch⟩

/-! ## The block size in a word of CBR1 (10_state.md R24) -/

section Cbr1

variable {L : Layout}

/-- Every channel has the block size, so the view of a channel keeps it (10_state.md R24). -/
theorem bndt_cbr1View (hL : L.wf = true) (c : Channel) (w : Word) :
    Fld.bndt.get L (cbr1View L c w) = Fld.bndt.get L w := by
  unfold cbr1View
  split
  · rfl
  refine BitVec.eq_of_getLsbD_eq fun i _ => ?_
  rw [Fld.get_getLsbD, Fld.get_getLsbD, BitVec.getLsbD_and]
  by_cases hwidth : i < Fld.bndt.width L
  · have hheld : Holds L .bndt (Fld.bndt.lo L + i) := ⟨Nat.le_add_right .., Nat.add_lt_add_left hwidth _⟩
    have hother (f : Fld) (hreg : f.reg = .cbr1) (hne : Fld.bndt ≠ f) :
        (f.mask L).getLsbD (Fld.bndt.lo L + i) = false :=
      Bool.eq_false_iff.mpr fun h => hne (hheld.unique hL ((mask_getLsbD_iff hL).mp h) hreg.symm)
    have hfit := Fld.bndt.lo_add_width_le hL
    have hmask : (cbr1LinearMask L).getLsbD (Fld.bndt.lo L + i) = true := by
      simp only [cbr1LinearMask, BitVec.getLsbD_not, BitVec.getLsbD_or, hother .brc rfl nofun, hother .srcDec rfl nofun,
        hother .dstDec rfl nofun, hother .blkSrcDec rfl nofun, hother .blkDstDec rfl nofun]
      simpa using (by omega : Fld.bndt.lo L + i < 32)
    rw [hmask, Bool.and_true]
  · simp [hwidth]

theorem width_bndt (L : Layout) : Fld.bndt.width L = 16 := rfl

/-- The block size reads back as it was written, when it fits the field. -/
theorem bndt_ins (hL : L.wf = true) {v : Word} (h : v.toNat < 65536) (w : Word) :
    Fld.bndt.get L (Fld.bndt.ins L v w) = v := by
  rw [Fld.get_ins_same .bndt hL, Fld.and_ones_of_lt .bndt L v (by simpa [width_bndt] using h)]

theorem bndtOf_lt (L : Layout) (c : Channel) : bndtOf L c < 65536 := by
  have hle : bndtOf L c ≤ (Fld.bndt.ones L).toNat := by
    rw [bndtOf, Fld.get, BitVec.toNat_and]
    exact Nat.and_le_right
  have hones : (Fld.bndt.ones L).toNat = 65535 := by simp [Fld.ones, width_bndt]
  omega

end Cbr1

/-! ## The block end (45_channel_engine.md R313, R314, R318) -/

section BlockEnd

variable {L : Layout} {c : Channel}

theorem eventMode_eq_iff (L : Layout) (c : Channel) (n : Nat) (hn : n < 2 ^ 32) :
    eventMode L c = n ↔ Fld.eventMode.get L c.ctr2 = BitVec.ofNat 32 n := by
  rw [eventMode, ← BitVec.toNat_inj, BitVec.toNat_ofNat, Nat.mod_eq_of_lt hn]

theorem eventMode_eq_zero_iff (L : Layout) (c : Channel) : eventMode L c = 0 ↔ Fld.eventMode.get L c.ctr2 = 0 :=
  eventMode_eq_iff L c 0 (by decide)

theorem chRaise_tc (c : Channel) :
    chRaise flagTC c = { c with csr := { c.csr with flags := { c.csr.flags with tc := true } } } := by
  simp [chRaise, flagsOr, flagsMap2, flagTC, FlagSet.empty]

theorem engineComplete_eq (L : Layout) (c : Channel) : engineComplete L c = completed L c := by
  have hevent : (eventMode L c = 3 || c.hid.tcDue) = (Fld.eventMode.get L c.ctr2 == 3 || c.hid.tcDue) := by
    rw [Bool.eq_iff_iff]
    simp [eventMode_eq_iff]
  unfold engineComplete completed
  rw [hevent, Bool.or_assoc]
  cases Fld.eventMode.get L c.ctr2 == 3 || c.hid.tcDue <;> simp [chRaise_tc]

theorem blockOffsets_eq (L : Layout) (c : Channel) : blockOffsets L c =
    { c with
      csar := if c.twoD then offset (Fld.blkSrcDec.test L c.cbr1) (Fld.blkSrcOfs.get L c.cbr2) c.csar else c.csar
      cdar := if c.twoD then offset (Fld.blkDstDec.test L c.cbr1) (Fld.blkDstOfs.get L c.cbr2) c.cdar
        else c.cdar } := by
  unfold blockOffsets
  split_ifs <;> rfl

/-- The full-complete event of a block end by mode: at every block in mode 0, at the last block in mode 1, due after it
in mode 2 (R318). -/
theorem blockEvent_eq (L : Layout) (c : Channel) :
    blockEvent L c =
      let mode := Fld.eventMode.get L c.ctr2
      let last : Bool := brcOf L c == 0
      { c with
        csr := { c.csr with flags := { c.csr.flags with tc := c.csr.flags.tc || mode == 0 || mode == 1 && last } }
        hid := { c.hid with tcDue := c.hid.tcDue || mode == 2 && last } } := by
  have hmode (n : Nat) (hn : n < 2 ^ 32) (h : eventMode L c = n) : Fld.eventMode.get L c.ctr2 = BitVec.ofNat 32 n :=
    (eventMode_eq_iff L c n hn).mp h
  unfold blockEvent
  split
  case h_1 h => simp [hmode 0 (by decide) h, chRaise_tc]
  case h_2 h =>
    by_cases hlast : brcOf L c = 0
    · simp [hmode 1 (by decide) h, hlast, chRaise_tc]
    · simp [hmode 1 (by decide) h, hlast, beq_false_of_ne hlast]
  case h_3 h =>
    by_cases hlast : brcOf L c = 0
    · simp [hmode 2 (by decide) h, hlast]
    · simp [hmode 2 (by decide) h, hlast, beq_false_of_ne hlast]
  case h_4 h0 h1 h2 =>
    have hne (n : Nat) (hn : n < 2 ^ 32) (h : eventMode L c ≠ n) :
        (Fld.eventMode.get L c.ctr2 == BitVec.ofNat 32 n) = false :=
      beq_false_of_ne (mt (eventMode_eq_iff L c n hn).mpr h)
    simp [hne 0 (by decide) h0, hne 1 (by decide) h1, hne 2 (by decide) h2]

/-- A block end before the next block, the next node or the completion: the block offsets and the event (R313, R318). -/
def blockClosed (L : Layout) (c : Channel) : Channel :=
  let mode := Fld.eventMode.get L c.ctr2
  let last : Bool := brcOf L c == 0
  { c with
    csar := if c.twoD then offset (Fld.blkSrcDec.test L c.cbr1) (Fld.blkSrcOfs.get L c.cbr2) c.csar else c.csar
    cdar := if c.twoD then offset (Fld.blkDstDec.test L c.cbr1) (Fld.blkDstOfs.get L c.cbr2) c.cdar else c.cdar
    csr := { c.csr with flags := { c.csr.flags with tc := c.csr.flags.tc || mode == 0 || mode == 1 && last } }
    hid := { c.hid with tcDue := c.hid.tcDue || mode == 2 && last } }

theorem blockClosed_eq (L : Layout) (c : Channel) : blockEvent L (blockOffsets L c) = blockClosed L c := by
  rw [blockOffsets_eq, blockEvent_eq]
  rfl

/-- The next block of a repeat: the count goes down, the block size comes from its copy, and the block begins (R306,
R313). -/
def blockRepeated (k : Cfg) (c : Channel) : Channel :=
  let L := k.layout
  let mode := Fld.eventMode.get L c.ctr2
  { c with
    cbr1 := Fld.bndt.ins L (c.hid.blkReload.setWidth 32) (Fld.brc.ins L (Fld.brc.get L c.cbr1 - 1) c.cbr1)
    hid := { c.hid with
      unitTotal := if mode = 0 then c.hid.blkReload.toNat else c.hid.unitTotal
      unitMoved := if mode = 0 then 0 else c.hid.unitMoved
      sbLeft := srcBurstBytes k c
      dbLeft := dstBurstBytes k c } }

/-- Only a channel with 2-D addressing has blocks left to repeat (10_state.md R24). -/
theorem twoD_of_brcOf (h : 0 < brcOf L c) : c.twoD = true := by
  by_contra htwoD
  simp [brcOf_eq, htwoD] at h

theorem blockRepeated_eq {k : Cfg} (hL : k.layout.wf = true) {c : Channel} (h : 0 < brcOf k.layout c) :
    beginRepeat k (setBndt k.layout c.hid.blkReload.toNat (setBrc k.layout (brcOf k.layout c - 1) c)) =
      blockRepeated k c := by
  have htwoD := twoD_of_brcOf h
  have hbrc : brcOf k.layout c = (Fld.brc.get k.layout c.cbr1).toNat := by simp [brcOf_eq, htwoD]
  have hcount : BitVec.ofNat 32 (brcOf k.layout c - 1) = Fld.brc.get k.layout c.cbr1 - 1 := by
    rw [hbrc] at h ⊢
    bv_omega
  have hsize (w : Word) : Fld.bndt.get k.layout (Fld.bndt.ins k.layout (c.hid.blkReload.setWidth 32) w) =
      c.hid.blkReload.setWidth 32 := bndt_ins hL (by simpa using by omega) w
  have hblock : setBndt k.layout c.hid.blkReload.toNat (setBrc k.layout (brcOf k.layout c - 1) c) =
      { c with
        cbr1 := Fld.bndt.ins k.layout (c.hid.blkReload.setWidth 32)
          (Fld.brc.ins k.layout (Fld.brc.get k.layout c.cbr1 - 1) c.cbr1) } := by
    simp only [setBndt, setBrc, linkWrite, cbr1View, htwoD, if_true, BitVec.ofNat_toNat, hcount]
  rw [hblock]
  simp only [beginRepeat, eventMode_eq_zero_iff, bndtOf, hsize, BitVec.toNat_setWidth_of_le (by decide : 16 ≤ 32)]
  rfl

/-- What a block end does is what the statement says. -/
theorem blockEnd_eq {k : Cfg} (hL : k.layout.wf = true) (c : Channel) : blockEnd k c = blockEnded k c := by
  unfold blockEnd
  simp only [blockClosed_eq]
  have hbrc : brcOf k.layout (blockClosed k.layout c) = brcOf k.layout c := rfl
  rw [engineComplete_eq, hbrc]
  by_cases hrepeat : 0 < brcOf k.layout c
  · have hnext := blockRepeated_eq hL (hbrc.symm ▸ hrepeat)
    rw [hbrc] at hnext
    rw [if_pos hrepeat, hnext, blockEnded, if_pos hrepeat]
    rfl
  · rw [if_neg hrepeat, blockEnded, if_neg hrepeat]
    rfl

end BlockEnd

/-- Settles O46: the two rows are the block end and the completion, where their conditions hold. -/
theorem blockEndResult : Obligations.BlockEndResult := by
  unfold Obligations.BlockEndResult
  intro ch s hch hk L c hen hpaused hdone
  have hL : L.wf = true := Cfg.wf_layout hk
  have hhas : s.hasChan ch.toNat = true := decide_eq_true hch
  have hrun : running c = true := by simp [running, hen, hpaused]
  change (_ → execEBlockEnd ch s = _) ∧ (_ → _ → execEComplete ch s = _)
  refine ⟨fun hpending => ?blockEnd, fun hlast hcllr => ?complete⟩
  case blockEnd =>
    rw [← funext (blockEnd_eq hL)]
    simp only [execEBlockEnd, partStep]
    exact congrArg _ (if_pos (by simp [hhas, c, L, hrun, hpending, hdone]))
  case complete =>
    rw [← funext (engineComplete_eq L)]
    simp only [execEComplete, partStep]
    exact congrArg _ (if_pos (by simp [hhas, c, L, hrun, hlast, hcllr, hdone]))

/-! ## The registers of a data step (45_channel_engine.md R309, R310) -/

section Registers

variable {L : Layout} {c : Channel}

theorem chRaise_ht (c : Channel) :
    chRaise flagHT c = { c with csr := { c.csr with flags := { c.csr.flags with ht := true } } } := by
  simp [chRaise, flagsOr, flagsMap2, flagHT, FlagSet.empty]

/-- The bytes moved reach the half point of the event unit, and the mode lets HT rise (R309, R318; log 16). -/
def reachesHalf (L : Layout) (g : Nat) (c : Channel) : Bool :=
  decide (c.hid.unitMoved < (c.hid.unitTotal + 1) / 2) &&
    decide ((c.hid.unitTotal + 1) / 2 ≤ c.hid.unitMoved + g) &&
    (Fld.eventMode.get L c.ctr2 != 3 || c.cllr == 0)

theorem reachesHalf_iff (L : Layout) (g : Nat) (c : Channel) :
    (c.hid.unitMoved < halfPoint c.hid.unitTotal ∧ halfPoint c.hid.unitTotal ≤ c.hid.unitMoved + g ∧
      halfAllowed L c = true) ↔ reachesHalf L g c = true := by
  simp [reachesHalf, halfPoint, halfAllowed, eventMode_eq_iff L c 3 (by decide), and_assoc]

/-- `update_bndt` (R309). -/
def sizeMoved (L : Layout) (g : Nat) (c : Channel) : Channel :=
  { c with
    cbr1 := cbr1View L c (Fld.bndt.ins L (BitVec.ofNat 32 (bndtOf L c - g)) c.cbr1)
    csr := { c.csr with flags := { c.csr.flags with ht := c.csr.flags.ht || reachesHalf L g c } }
    hid := { c.hid with unitMoved := c.hid.unitMoved + g } }

theorem updateBndt_eq (L : Layout) (g : Nat) (c : Channel) : updateBndt L g c = sizeMoved L g c := by
  have hhalf := reachesHalf_iff L g c
  unfold updateBndt
  cases hreach : reachesHalf L g c with
  | true =>
    refine (if_pos (hhalf.mpr hreach)).trans ?_
    rw [chRaise_ht, sizeMoved, hreach, Bool.or_true]
    rfl
  | false =>
    refine (if_neg (mt hhalf.mp (by simp [hreach]))).trans ?_
    rw [sizeMoved, hreach, Bool.or_false]
    rfl

/-- The block size after `g` of its bytes have moved. -/
theorem bndtOf_sizeMoved (hL : L.wf = true) (g : Nat) (c : Channel) :
    bndtOf L (sizeMoved L g c) = bndtOf L c - g := by
  have hlt := bndtOf_lt L c
  simp only [bndtOf, sizeMoved] at hlt ⊢
  rw [bndt_cbr1View hL, bndt_ins hL (by simp; omega)]
  simp
  omega

/-- An address at the end of a step: with 2-D addressing the end of a burst adds the burst offset (R310). -/
def burstMoved (twoD ends dec : Bool) (ofs a : Word) : Word := if twoD && ends then offset dec ofs a else a

/-- The directions of a channel with 2-D addressing stand when the block size is written (R24, R142). -/
theorem burstMoved_bndt (hL : L.wf = true) {f : Fld} (hreg : f.reg = .cbr1) (hne : f ≠ .bndt) (hwidth : 0 < f.width L)
    (ends : Bool) (v w ofs a : Word) :
    burstMoved c.twoD ends (f.test L (cbr1View L c (Fld.bndt.ins L v w))) ofs a =
      burstMoved c.twoD ends (f.test L w) ofs a := by
  cases htwoD : c.twoD with
  | false => rfl
  | true => rw [cbr1View, if_pos htwoD, Fld.test_ins_ne f .bndt hL v w hreg hne hwidth]

theorem srcBurstEnd_eq {k : Cfg} {c : Channel} {ends : Bool}
    (h : c.hid.sbLeft = 0 ∨ bndtOf k.layout c = 0 ↔ ends = true) : srcBurstEnd k c =
      { c with
        csar := burstMoved c.twoD ends (Fld.srcDec.test k.layout c.cbr1) (Fld.srcBurstOfs.get k.layout c.ctr3) c.csar
        hid := { c.hid with sbLeft := if ends then srcBurstBytes k c else c.hid.sbLeft } } := by
  unfold srcBurstEnd
  cases ends <;> simp [h, burstMoved]

theorem dstBurstEnd_eq {k : Cfg} {c : Channel} {ends : Bool}
    (h : c.hid.dbLeft = 0 ∨ bndtOf k.layout c = 0 ↔ ends = true) : dstBurstEnd k c =
      { c with
        cdar := burstMoved c.twoD ends (Fld.dstDec.test k.layout c.cbr1) (Fld.dstBurstOfs.get k.layout c.ctr3) c.cdar
        hid := { c.hid with dbLeft := if ends then dstBurstBytes k c else c.hid.dbLeft } } := by
  unfold dstBurstEnd
  cases ends <;> simp [h, burstMoved]

/-- A step of `g` bytes ends a burst with `left` bytes when it moves them all or the block's last ones (R310). -/
theorem burstEnds_iff {left n g size : Nat} (hg : g ≤ size) :
    (left - n = 0 ∨ size - g = 0) ↔ (decide (left ≤ n) || decide (size = g)) = true := by
  simp only [Bool.or_eq_true, decide_eq_true_eq]
  omega

/-- Block size, addresses and bursts after a step that read `g` bytes and wrote `nw` are those of the statement. -/
theorem updateAddresses_eq {k : Cfg} (hL : k.layout.wf = true) {g : Nat} (nw : Nat) {c : Channel}
    (hg : g ≤ bndtOf k.layout c) : updateAddresses k g nw (updateBndt k.layout g c) = moved k g nw c := by
  have hsize := bndtOf_sizeMoved hL g c
  have hsrc := hsize ▸ burstEnds_iff (left := c.hid.sbLeft) (n := g) hg
  have hdst := hsize ▸ burstEnds_iff (left := c.hid.dbLeft) (n := nw) hg
  rw [updateAddresses, updateBndt_eq, srcBurstEnd_eq hsrc, dstBurstEnd_eq hdst]
  dsimp only [incAddresses, sizeMoved]
  simp only [burstMoved_bndt hL (f := .srcDec) rfl nofun Nat.one_pos,
    burstMoved_bndt hL (f := .dstDec) rfl nofun Nat.one_pos]
  rfl

theorem bndtOf_moved {k : Cfg} (hL : k.layout.wf = true) (g nw : Nat) (c : Channel) :
    bndtOf k.layout (moved k g nw c) = bndtOf k.layout c - g := bndtOf_sizeMoved hL g c

/-- The register part of a data step that read `g` bytes and wrote `nw` (R308). -/
theorem advance_eq {k : Cfg} (hL : k.layout.wf = true) {g : Nat} (nw : Nat) {c : Channel}
    (hg : g ≤ bndtOf k.layout c) :
    advance k g nw c =
      if bndtOf k.layout c = g then blockEnded k (moved k g nw c) else moved k g nw c := by
  have hdone : bndtOf k.layout c - g = 0 ↔ bndtOf k.layout c = g := by omega
  simp only [advance, updateAddresses_eq hL nw hg, bndtOf_moved hL, blockEnd_eq hL, hdone]

end Registers

/-! ## The accesses of a data step (45_channel_engine.md R308; 20_memory.md R80, R81) -/

section Accesses

variable {s : State} {ch : ChId}

/-- What is built for rising indices begins with what is built for the first `j` of them. -/
theorem range_map_split {α : Type} (f : Nat → α) {j n : Nat} (h : j < n) :
    ∃ rest, (List.range n).map f = (List.range j).map f ++ f j :: rest := by
  obtain ⟨d, rfl⟩ := Nat.exists_eq_add_of_lt h
  refine ⟨(List.range d).map fun k => f (j + 1 + k), ?_⟩
  rw [show j + d + 1 = j + 1 + d by omega, List.range_add, List.range_succ]
  simp [Function.comp_def]

theorem accessed_zero (s : State) (ch : ChId) : accessed s ch 0 0 = s := by simp [accessed, freshAt]

/-- The `j`-th source access, after those before it (R308; peripheral registers: log 9). -/
theorem dataRead_accessed (s : State) (ch : ChId) (j : Nat) :
    dataRead ch.toNat (srcAt s ch j) (srcItem s.cfg.layout (s.chan ch.toNat)) (accessed s ch j 0) =
      (itemRead s ch j, accessed s ch (j + 1) 0) := by
  have hdev : (accessed s ch j 0).isDevice (srcAt s ch j) = s.isDevice (srcAt s ch j) := rfl
  unfold dataRead
  rw [hdev]
  cases hd : s.isDevice (srcAt s ch j) <;>
    simp [accessed, itemRead, freshAt, hd, List.range_succ, List.filter_append, Nat.add_assoc]

/-- The `j`-th destination access, after the source accesses and those before it (R308). -/
theorem dataWrite_accessed (s : State) (ch : ChId) (n j : Nat) :
    dataWrite ch.toNat (dstAt s ch j) (itemWritten s ch j) (accessed s ch n j) = accessed s ch n (j + 1) := by
  have hdev : (accessed s ch n j).isDevice (dstAt s ch j) = s.isDevice (dstAt s ch j) := rfl
  unfold dataWrite
  rw [hdev]
  simp [accessed, List.range_succ]

/-- The source accesses go on after the first `j`, when these are admitted. -/
theorem sourceReads_accessed {j : Nat} (h : readsAdmitted s ch j) (rest : List Word) :
    sourceReads ch.toNat (srcItem s.cfg.layout (s.chan ch.toNat)) ((List.range j).map (srcAt s ch) ++ rest) [] s =
      sourceReads ch.toNat (srcItem s.cfg.layout (s.chan ch.toNat)) rest ((List.range j).flatMap (itemRead s ch))
        (accessed s ch j 0) := by
  induction j generalizing rest with
  | zero => simp [accessed_zero]
  | succ j ih =>
    have hadmit : (accessed s ch j 0).admits ch.toNat .dataRead (srcAt s ch j)
        (srcItem s.cfg.layout (s.chan ch.toNat)) = true := h j (Nat.lt_succ_self j)
    rw [List.range_succ, List.map_append, List.append_assoc, ih fun m hm => h m (Nat.lt_succ_of_lt hm)]
    simp only [List.map_cons, List.map_nil, List.cons_append, List.nil_append, List.flatMap_append]
    rw [sourceReads, if_pos hadmit, dataRead_accessed]
    simp

/-- The destination accesses go on after the first `j`, when these are admitted. -/
theorem destWrites_accessed {n j : Nat} (h : writesAdmitted s ch j) (rest : List (Word × List Byte)) :
    destWrites ch.toNat (dstItem s.cfg.layout (s.chan ch.toNat))
        ((List.range j).map (fun k => (dstAt s ch k, itemWritten s ch k)) ++ rest) (accessed s ch n 0) =
      destWrites ch.toNat (dstItem s.cfg.layout (s.chan ch.toNat)) rest (accessed s ch n j) := by
  induction j generalizing rest with
  | zero => rfl
  | succ j ih =>
    have hadmit : (accessed s ch n j).admits ch.toNat .dataWrite (dstAt s ch j)
        (dstItem s.cfg.layout (s.chan ch.toNat)) = true := h j (Nat.lt_succ_self j)
    rw [List.range_succ, List.map_append, List.append_assoc, ih fun m hm => h m (Nat.lt_succ_of_lt hm)]
    simp only [List.map_cons, List.map_nil, List.cons_append, List.nil_append]
    rw [destWrites, if_pos hadmit, dataWrite_accessed]

/-- The source accesses of a data step (R308). -/
theorem stepReads_eq (s : State) (ch : ChId) :
    stepReads ch.toNat s = sourceReads ch.toNat (srcItem s.cfg.layout (s.chan ch.toNat))
      ((List.range (readCount s ch)).map (srcAt s ch)) [] s := rfl

theorem stepReads_admitted (h : readsAdmitted s ch (readCount s ch)) :
    stepReads ch.toNat s =
      (some ((List.range (readCount s ch)).flatMap (itemRead s ch)), accessed s ch (readCount s ch) 0) := by
  have hreads := sourceReads_accessed h []
  rw [List.append_nil] at hreads
  exact hreads

theorem stepReads_refused {j : Nat} (hj : j < readCount s ch) (h : readsAdmitted s ch j)
    (hrefused : s.admits ch.toNat .dataRead (srcAt s ch j) (srcItem s.cfg.layout (s.chan ch.toNat)) = false) :
    stepReads ch.toNat s = (none, accessed s ch j 0) := by
  obtain ⟨rest, hsplit⟩ := range_map_split (srcAt s ch) hj
  rw [stepReads_eq, hsplit, sourceReads_accessed h]
  exact if_neg (Bool.eq_false_iff.mp hrefused)

/-- The destination accesses of a data step whose reads are admitted (R308, R311). -/
theorem stepWrites_eq (s : State) (ch : ChId) :
    stepWrites s.cfg.layout (s.chan ch.toNat) ((List.range (readCount s ch)).flatMap (itemRead s ch)) =
      (List.range (writeCount s ch)).map fun k => (dstAt s ch k, itemWritten s ch k) := by
  have hcount : (items (dstItem s.cfg.layout (s.chan ch.toNat)) (written s ch)).length = writeCount s ch := by
    simp [items]
  calc stepWrites s.cfg.layout (s.chan ch.toNat) ((List.range (readCount s ch)).flatMap (itemRead s ch))
      = ((List.range (items (dstItem s.cfg.layout (s.chan ch.toNat)) (written s ch)).length).map (dstAt s ch)).zip
          ((List.range (writeCount s ch)).map (itemWritten s ch)) := rfl
    _ = _ := by rw [hcount, List.zip_map']

/-- The outcome of the accesses once the reads are done. -/
theorem dataAccess_of_reads {i : Nat} {bytes : List Byte} {t u : State} {done : Bool}
    (hreads : stepReads i s = (some bytes, t))
    (hwrites : destWrites i (dstItem s.cfg.layout (s.chan i)) (stepWrites s.cfg.layout (s.chan i) bytes) t =
      (done, u)) :
    dataAccess i s = (if done then some (transform s.cfg.layout (s.chan i) bytes).length else none, u) := by
  unfold stepReads at hreads
  unfold stepWrites at hwrites
  dsimp only at hreads hwrites
  simp only [dataAccess, hreads, hwrites]
  cases done <;> rfl

/-- Every access admitted (R308). -/
theorem dataAccess_admitted (hreads : readsAdmitted s ch (readCount s ch))
    (hwrites : writesAdmitted s ch (writeCount s ch)) :
    dataAccess ch.toNat s = (some (written s ch).length, accessed s ch (readCount s ch) (writeCount s ch)) := by
  have hdone := destWrites_accessed (n := readCount s ch) hwrites []
  rw [List.append_nil, ← stepWrites_eq] at hdone
  exact dataAccess_of_reads (done := true) (stepReads_admitted hreads) hdone

/-- A source access refused (R321). -/
theorem dataAccess_read_refused {j : Nat} (hj : j < readCount s ch) (h : readsAdmitted s ch j)
    (hrefused : s.admits ch.toNat .dataRead (srcAt s ch j) (srcItem s.cfg.layout (s.chan ch.toNat)) = false) :
    dataAccess ch.toNat s = (none, accessed s ch j 0) := by
  have hreads := stepReads_refused hj h hrefused
  unfold stepReads at hreads
  dsimp only at hreads
  simp only [dataAccess, hreads]

/-- A destination access refused (R321). -/
theorem dataAccess_write_refused {j : Nat} (hreads : readsAdmitted s ch (readCount s ch)) (hj : j < writeCount s ch)
    (h : writesAdmitted s ch j)
    (hrefused : s.admits ch.toNat .dataWrite (dstAt s ch j) (dstItem s.cfg.layout (s.chan ch.toNat)) = false) :
    dataAccess ch.toNat s = (none, accessed s ch (readCount s ch) j) := by
  obtain ⟨rest, hsplit⟩ := range_map_split (fun k => (dstAt s ch k, itemWritten s ch k)) hj
  refine dataAccess_of_reads (done := false) (stepReads_admitted hreads) ?_
  rw [stepWrites_eq, hsplit, destWrites_accessed h]
  exact if_neg (Bool.eq_false_iff.mp hrefused)

end Accesses

/-! ## Data steps (45_channel_engine.md R308, R321) -/

section DataSteps

variable {s : State} {ch : ChId}

theorem dataEnabled_not_pending {i : Nat} (h : dataEnabled s i = true) : (s.chan i).hid.linkPending = false := by
  simp only [dataEnabled, dataReady, Bool.and_eq_true, Bool.not_eq_true'] at h
  obtain ⟨-, ⟨⟨⟨-, hpending⟩, -⟩, -⟩, -⟩ := h
  exact hpending

theorem takeData_enabled {i : Nat} (h : dataEnabled s i = true) : takeData i s = dataStep i s := if_pos h

/-- The step and its grant are one data step (log 14). -/
theorem exec_dataStep {i : Instr} (hi : i = .eData ch ∨ i = .aGrant ch) (h : dataEnabled s ch.toNat = true) :
    exec i s = .next (dataStep ch.toNat s) := by
  obtain rfl | rfl := hi
  · exact congrArg _ (takeData_enabled h)
  · change execAGrant ch s = _
    rw [execAGrant, if_neg (by simp [dataEnabled_not_pending h]), takeData_enabled h]

theorem chRaiseFatal_dte (c : Channel) : chRaiseFatal flagDTE c = stopped c { c.csr.flags with dte := true } := by
  simp [chRaiseFatal, flagsOr, flagsMap2, flagDTE, FlagSet.empty]

/-- A refused access, by the step, its grant or the row of DTE: the accesses before it, then the stop (R321; log 13). -/
theorem exec_refused {i : Instr} (hi : i = .eData ch ∨ i = .eRaiseDte ch ∨ i = .aGrant ch)
    (henabled : dataEnabled s ch.toNat = true) {t : State} (h : dataAccess ch.toNat s = (none, t)) :
    exec i s = .next (t.setChan ch.toNat
      (stopped (s.chan ch.toNat) { (s.chan ch.toNat).csr.flags with dte := true })) := by
  have hstep : dataStep ch.toNat s = t.setChan ch.toNat
      (stopped (s.chan ch.toNat) { (s.chan ch.toNat).csr.flags with dte := true }) := by
    simp only [dataStep, h, chRaiseFatal_dte]
  rw [← hstep]
  obtain rfl | rfl | rfl := hi
  · exact exec_dataStep (.inl rfl) henabled
  · change execERaiseDte ch s = _
    simp [execERaiseDte, henabled, h]
  · exact exec_dataStep (.inr rfl) henabled

end DataSteps

/-- Settles O45: the accesses stop at the refused one. -/
theorem refusedAccessResult : Obligations.RefusedAccessResult := by
  unfold Obligations.RefusedAccessResult
  intro ch s i j hi failed henabled
  exact ⟨fun hj hreads hrefused => exec_refused hi henabled (dataAccess_read_refused hj hreads hrefused),
    fun hreads hj hwrites hrefused =>
      exec_refused hi henabled (dataAccess_write_refused hreads hj hwrites hrefused)⟩

/-- Settles O44: all the accesses are made, then the registers move on; there is nothing for DTE to report. -/
theorem dataStepResult : Obligations.DataStepResult := by
  unfold Obligations.DataStepResult
  intro ch s hk henabled hreads hwrites L c g d
  have haccess := dataAccess_admitted hreads hwrites
  refine ⟨fun i hi => ?moves, ?noError⟩
  case moves =>
    have hmoved : advance s.cfg g (written s ch).length c = if bndtOf L c = g then blockEnded s.cfg d else d :=
      advance_eq (Cfg.wf_layout hk) _ (Nat.min_le_right ..)
    rw [exec_dataStep hi henabled, ← hmoved]
    simp only [dataStep, haccess]
    rfl
  case noError =>
    change execERaiseDte ch s = _
    simp [execERaiseDte, haccess]

/-! ## Plain data steps (45_channel_engine.md R308, R311) -/

section Plain

variable {s : State} {ch : ChId}

theorem srcItem_pos (L : Layout) (c : Channel) : 0 < srcItem L c := Nat.two_pow_pos _

theorem dstItem_of_plain {L : Layout} {c : Channel} (h : isPlain L c = true) : dstItem L c = srcItem L c := by
  simp only [isPlain, Bool.and_eq_true, decide_eq_true_eq] at h
  obtain ⟨⟨⟨⟨hwidths, -⟩, -⟩, -⟩, -⟩ := h
  exact hwidths.symm

theorem srcAt_zero (s : State) (ch : ChId) : srcAt s ch 0 = (s.chan ch.toNat).csar := by simp

theorem dstAt_zero (s : State) (ch : ChId) : dstAt s ch 0 = (s.chan ch.toNat).cdar := by simp

/-- A plain step consumes one item. -/
theorem stepBytes_plain (h : PlainStep s ch) :
    stepBytes s.cfg.layout (s.chan ch.toNat) = srcItem s.cfg.layout (s.chan ch.toNat) := by
  obtain ⟨-, hplain, hsize, -⟩ := h
  rw [stepBytes, dstItem_of_plain hplain, max_self, min_eq_left hsize]

theorem readCount_plain (h : PlainStep s ch) : readCount s ch = 1 := by
  have hcount := congrArg (· / srcItem s.cfg.layout (s.chan ch.toNat)) (stepBytes_plain h)
  exact hcount.trans (Nat.div_self (srcItem_pos ..))

theorem itemRead_plain (h : PlainStep s ch) : itemRead s ch 0 =
    readBytes s.mem (s.chan ch.toNat).csar (srcItem s.cfg.layout (s.chan ch.toNat)) := by
  obtain ⟨-, -, -, hmemory, -⟩ := h
  simp only [itemRead, srcAt_zero, hmemory]
  rfl

/-- A plain step writes the bytes it read. -/
theorem written_plain (h : PlainStep s ch) : written s ch =
    readBytes s.mem (s.chan ch.toNat).csar (srcItem s.cfg.layout (s.chan ch.toNat)) := by
  have hread := itemRead_plain h
  have hcount := readCount_plain h
  obtain ⟨-, hplain, -⟩ := h
  simp only [written, hplain, if_true, hcount, List.range_one, List.flatMap_cons, List.flatMap_nil, List.append_nil]
  exact hread

theorem written_length_plain (h : PlainStep s ch) :
    (written s ch).length = srcItem s.cfg.layout (s.chan ch.toNat) := by
  simp [written_plain h, readBytes]

theorem writeCount_plain (h : PlainStep s ch) : writeCount s ch = 1 := by
  have hlength := written_length_plain h
  obtain ⟨-, hplain, -⟩ := h
  rw [writeCount, hlength, dstItem_of_plain hplain, Nat.div_self (srcItem_pos ..)]

theorem itemWritten_plain (h : PlainStep s ch) : itemWritten s ch 0 =
    readBytes s.mem (s.chan ch.toNat).csar (srcItem s.cfg.layout (s.chan ch.toNat)) := by
  have hlength := written_length_plain h
  have hbytes := written_plain h
  obtain ⟨-, hplain, -⟩ := h
  rw [itemWritten, Nat.zero_mul, List.drop_zero, List.take_of_length_le (by rw [hlength, dstItem_of_plain hplain]),
    hbytes]

/-- The two accesses of a plain step: the bytes at CSAR stored at CDAR, both recorded. -/
theorem accessed_plain (h : PlainStep s ch) :
    let c := s.chan ch.toNat
    let bytes := readBytes s.mem c.csar (srcItem s.cfg.layout c)
    accessed s ch 1 1 = { s with
      mem := writeBytes s.mem c.cdar bytes
      trace := s.trace ++ [Event.read ch.toNat c.csar bytes] ++ [Event.write ch.toNat c.cdar bytes] } := by
  have hread := itemRead_plain h
  have hwritten := itemWritten_plain h
  obtain ⟨-, -, -, hsource, hdest, -⟩ := h
  simp [accessed, hread, hwritten, srcAt_zero, dstAt_zero, hsource, hdest]

end Plain

/-- Settles O43: the data step of one item on either side. -/
theorem plainDataStepResult : Obligations.PlainDataStepResult := by
  unfold Obligations.PlainDataStepResult
  intro ch s hk hstep c n bytes d i hi
  have hreadCount := readCount_plain hstep
  have hwriteCount := writeCount_plain hstep
  have hlength := written_length_plain hstep
  have hbytes := stepBytes_plain hstep
  have haccessed := accessed_plain hstep
  obtain ⟨henabled, hplain, -, -, -, hreadOk, hwriteOk⟩ := hstep
  have hreads : readsAdmitted s ch (readCount s ch) := by
    rw [hreadCount]
    intro m hm
    rw [Nat.lt_one_iff.mp hm, srcAt_zero]
    exact hreadOk
  have hwrites : writesAdmitted s ch (writeCount s ch) := by
    rw [hwriteCount]
    intro m hm
    rw [Nat.lt_one_iff.mp hm, dstAt_zero, dstItem_of_plain hplain]
    exact hwriteOk
  obtain ⟨hmoves, -⟩ := dataStepResult ch s hk henabled hreads hwrites
  rw [hmoves i hi, hreadCount, hwriteCount, haccessed, hlength]
  rw [stepBytes] at hbytes
  rw [hbytes]

end Sys2Proof.ChannelEngine
end

section
/-! The arbiter (46_arbiter.md): the gates as conditions on registers and inputs, which channel may be granted, and what a
grant does (O49). -/

namespace Sys2Proof.Arbiter

open Sys2Proof.Machine Sys2Proof.Claims Sys2Proof.ChannelEngine

/-! ## The gates (46_arbiter.md R342; log 15) -/

section Gates

variable {L : Layout} {k : Cfg} {c : Channel}

theorem not_firstOfBlock_iff : (!firstOfBlock L c) = true ↔ inBlock L c := by simp [firstOfBlock]

theorem not_firstOfBurst_iff : (!firstOfBurst k c) = true ↔ inBurst k c := by
  cases hside : Fld.dstReq.test k.layout c.ctr2 <;>
    simp [firstOfBurst, inBurst, hside, srcBurstBytes, dstBurstBytes, srcItem, dstItem, widthBytes]

theorem not_firstOfNode_iff :
    (!firstOfNode L c) = true ↔ inBlock L c ∨ brcOf L c ≠ c.hid.brcReload.toNat := by
  rw [firstOfNode, Bool.not_and, Bool.or_eq_true, not_firstOfBlock_iff, Bool.not_eq_true', decide_eq_false_iff_not]

theorem requestGate_iff : requestGate k c = true ↔ RequestOpen k c := by
  cases hblock : Fld.blockReq.test k.layout c.ctr2
  · simp only [requestGate, RequestOpen, hblock, Bool.or_eq_true, or_assoc, Bool.false_eq_true, if_false,
      not_firstOfBurst_iff]
  · simp only [requestGate, RequestOpen, hblock, Bool.or_eq_true, or_assoc, if_true, not_firstOfBlock_iff]

theorem untriggered_or_trig_iff : (!triggerOn L c || c.pins.trig) = true ↔ Triggered L c := by
  simp [triggerOn, Triggered]

/-- The trigger mode is a two-bit field, so the model's last case is the mode 3. -/
theorem trigMode_cases (L : Layout) (w : Word) :
    Fld.trigMode.get L w = 0 ∨ Fld.trigMode.get L w = 1 ∨ Fld.trigMode.get L w = 2 ∨ Fld.trigMode.get L w = 3 := by
  have hle : (Fld.trigMode.get L w).toNat ≤ 3 := by
    rw [Fld.get, BitVec.toNat_and]
    exact Nat.and_le_right
  bv_omega

theorem triggerGate_iff : triggerGate k c = true ↔ TriggerOpen k c := by
  rw [triggerGate, Bool.or_eq_true, untriggered_or_trig_iff, TriggerOpen]
  refine or_congr_right ?_
  obtain hmode | hmode | hmode | hmode := trigMode_cases k.layout c.ctr2
  · simpa [hmode] using not_firstOfBlock_iff
  · simpa [hmode] using not_firstOfNode_iff
  · simp [hmode]
  · simpa [hmode] using not_firstOfBurst_iff

theorem linkGate_iff : linkGate L c = true ↔ Triggered L c ∨ Fld.trigMode.get L c.ctr2 ≠ 2 := by
  rw [linkGate, Bool.or_eq_true, untriggered_or_trig_iff, decide_eq_true_eq]
  exact or_congr_right (not_congr (BitVec.toNat_inj (y := 2)))

end Gates

/-! ## Wanting the bus (46_arbiter.md R341; 45_channel_engine.md R307, R316) -/

section Wanting

variable {k : Cfg} {c : Channel}

theorem wants_iff : wants k c = true ↔ Wants k c := by
  simp only [wants, running, Wants, Bool.and_eq_true, Bool.or_eq_true, Bool.not_eq_true', decide_eq_true_eq,
    requestGate_iff, triggerGate_iff, and_assoc]

/-- A wanting channel is ready for a data step when no link step is pending. -/
theorem dataReady_eq (k : Cfg) (c : Channel) : dataReady k c = (wants k c && !c.hid.linkPending) := by
  cases hpending : c.hid.linkPending <;> simp [dataReady, wants, hpending, Bool.and_assoc]

/-- A pending link step waits for its own trigger gate only. -/
theorem linkReady_eq (k : Cfg) (c : Channel) :
    linkReady k.layout c = (wants k c && c.hid.linkPending && linkGate k.layout c) := by
  cases hpending : c.hid.linkPending <;> simp [linkReady, wants, hpending]

end Wanting

/-! ## The grant (46_arbiter.md R343) -/

section Grant

variable {s : State} {i : Nat}

/-- A property of every channel, by the channels' numbers. -/
theorem forall_mem_chans_iff {P : Channel → Prop} : (∀ d ∈ s.chans, P d) ↔ ∀ j < s.chans.length, P (s.chan j) := by
  constructor
  · exact fun h j hj => h _ (s.chan_mem j hj)
  · intro h d hd
    obtain ⟨j, hj, rfl⟩ := List.getElem_of_mem hd
    simpa [State.chan, hj] using h j hj

/-- No channel of a higher class wants the bus; equal classes do not stop each other. -/
theorem no_higher_wants_iff {p : Word} :
    (s.chans.all fun d => !(wants s.cfg d && decide (p < d.ccr.prio))) = true ↔
      ∀ j < s.chans.length, Wants s.cfg (s.chan j) → (s.chan j).ccr.prio.toNat ≤ p.toNat := by
  rw [List.all_eq_true, forall_mem_chans_iff]
  refine forall₂_congr fun j _ => ?_
  rw [← wants_iff]
  cases wants s.cfg (s.chan j) <;> simp [BitVec.lt_def]

theorem grantable_iff : grantable s i = true ↔ MayBeGranted s i := by
  simp only [grantable, State.hasChan, Bool.and_eq_true, decide_eq_true_eq, wants_iff, and_assoc, Bool.or_eq_true,
    no_higher_wants_iff, Bool.not_eq_true', MayBeGranted]
  cases s.cfg.strictPriority <;> simp

theorem dataEnabled_iff : dataEnabled s i = true ↔ MayBeGranted s i ∧ (s.chan i).hid.linkPending = false := by
  rw [dataEnabled, Bool.and_eq_true, grantable_iff]
  refine and_congr_right fun ⟨_, hwants, _⟩ => ?_
  rw [dataReady_eq, wants_iff.mpr hwants, Bool.true_and, Bool.not_eq_true']

theorem linkEnabled_iff : linkEnabled s i = true ↔ MayBeGranted s i ∧ (s.chan i).hid.linkPending = true ∧
    (Triggered s.cfg.layout (s.chan i) ∨ Fld.trigMode.get s.cfg.layout (s.chan i).ctr2 ≠ 2) := by
  rw [linkEnabled, Bool.and_eq_true, grantable_iff]
  refine and_congr_right fun ⟨_, hwants, _⟩ => ?_
  rw [linkReady_eq, wants_iff.mpr hwants, Bool.true_and, Bool.and_eq_true, linkGate_iff]

theorem takeData_not_granted (h : ¬ MayBeGranted s i) : takeData i s = s :=
  if_neg fun henabled => h (dataEnabled_iff.mp henabled).1

theorem takeLink_not_granted (h : ¬ MayBeGranted s i) : takeLink i s = s :=
  if_neg fun henabled => h (linkEnabled_iff.mp henabled).1

end Grant

section Rows

variable {s : State} {ch : ChId}

/-- A grant takes the pending link step, at once (log 14). -/
theorem execAGrant_pending (h : (s.chan ch.toNat).hid.linkPending = true) : execAGrant ch s = execELink ch s :=
  congrArg _ (if_pos h)

/-- A grant outside a link step is a data step, at once (log 14). -/
theorem execAGrant_not_pending (h : (s.chan ch.toNat).hid.linkPending = false) : execAGrant ch s = execEData ch s :=
  congrArg _ (if_neg (Bool.eq_false_iff.mp h))

theorem execEData_not_granted (h : ¬ MayBeGranted s ch.toNat) : execEData ch s = .next s :=
  congrArg _ (takeData_not_granted h)

theorem execELink_not_granted (h : ¬ MayBeGranted s ch.toNat) : execELink ch s = .next s :=
  congrArg _ (takeLink_not_granted h)

theorem execAGrant_not_granted (h : ¬ MayBeGranted s ch.toNat) : execAGrant ch s = .next s := by
  cases hpending : (s.chan ch.toNat).hid.linkPending
  · exact (execAGrant_not_pending hpending).trans (execEData_not_granted h)
  · exact (execAGrant_pending hpending).trans (execELink_not_granted h)

end Rows

/-- Settles O49: the gates as conditions, the policy over the channels' numbers, and the rows of the two steps. -/
theorem grantPolicy : Obligations.GrantPolicy := by
  unfold Obligations.GrantPolicy
  intro s ch i c
  refine ⟨grantable_iff, dataEnabled_iff, linkEnabled_iff, ?_, execAGrant_pending, execAGrant_not_pending⟩
  intro hrefused r hr
  simp only [List.mem_cons, List.not_mem_nil, or_false] at hr
  obtain rfl | rfl | rfl := hr
  · exact execAGrant_not_granted hrefused
  · exact execEData_not_granted hrefused
  · exact execELink_not_granted hrefused

end Sys2Proof.Arbiter
end

section
/-! Refused commands (70_reset_and_hazards.md R411, R422; 93_implementation_defined.md U3, U5): host writes to link
registers of an enabled channel, and configuring commands over a running channel (O21). -/

namespace Sys2Proof.Refusals

open Sys2Proof.Machine Sys2Proof.Claims Sys2Proof.Scope Sys2Proof.RegisterFile Sys2Proof.QueueEdits
  Sys2Proof.Configuration

/-! ## Runs that end in a refusal (20_memory.md R86; log 18) -/

/-- Within `n` accesses the operations `ops` come to one that the machine refuses, whatever stands behind them. -/
def Refuses (n : Nat) (ops : List HostOp) (s : State) (e : Refusal) : Prop :=
  ∀ (m : Nat) (rest : List HostOp), runOps (n + m) (ops ++ rest) s = .refused e

section Refuses

variable {n m : Nat} {op : HostOp} {ops ops' : List HostOp} {s t : State} {e : Refusal}

theorem Refuses.single (hop : runOp op s = .refused e) : Refuses 1 [op] s e := fun m rest => by
  rw [Nat.add_comm, List.singleton_append, runOps_refused hop]

/-- What follows at once from an operation is refused. -/
theorem Refuses.go (hop : runOp op s = .go ops t) (h : Refuses n ops t e) : Refuses (n + 1) [op] s e := fun m rest => by
  rw [Nat.add_right_comm, List.singleton_append, runOps_go hop, h]

/-- Nothing behind a refused operation is run. -/
theorem Refuses.append (h : Refuses n ops s e) (ops' : List HostOp) : Refuses n (ops ++ ops') s e := fun m rest => by
  rw [List.append_assoc, h]

/-- Operations that finish, then some that are refused. -/
theorem Refuses.after (h' : Refuses m ops' t e) (h : Runs n ops s t) : Refuses (n + m) (ops ++ ops') s e :=
  fun l rest => by rw [Nat.add_assoc, List.append_assoc, h, h']

theorem Refuses.runHost (h : Refuses n ops s e) (hq : n ≤ s.quantum) : Machine.runHost ops s = .refused e := by
  obtain ⟨k, hk⟩ := Nat.exists_eq_add_of_le hq
  rw [Machine.runHost, hk, h]

theorem Refuses.guarded {gs : List (Nat → HostOp)} (hgs : ∀ g ∈ gs, Passes s g) (h : Refuses n ops s e) :
    Refuses (gs.length + n) (Machine.guarded gs ops) s e := by
  induction gs with
  | nil => rwa [List.length_nil, Nat.zero_add]
  | cons g gs ih =>
    obtain ⟨hg, hgs⟩ := List.forall_mem_cons.mp hgs
    rw [guarded_cons, List.length_cons, Nat.add_comm _ 1, Nat.add_assoc]
    exact (ih hgs).after (.single (hg _))

/-- A command whose operands are legal and whose tests pass, refused within its turn. -/
theorem command_refused {legal : Bool} {gs : List (Nat → HostOp)} (hr : Ready s) (hlegal : legal = true)
    (hgs : ∀ g ∈ gs, Passes s g) (h : Refuses n ops s e) (hn : gs.length + n ≤ 64) :
    command legal gs ops s = .refused e := by
  obtain ⟨-, hquantum⟩ := hr
  rw [command_run hlegal]
  exact (h.guarded hgs).runHost (hn.trans hquantum)

end Refuses

/-! ## Writes of a link register of an enabled channel (93_implementation_defined.md U3) -/

section LinkWrites

variable {n : Nat} {s : State} {ch : ChId} {r : Reg} {ops : List HostOp} {e : Refusal}

theorem refuses_regWrite {i : Nat} (hen : (s.chan i).ccr.en = true) (hlink : isLinkReg r = true) (w : Word) :
    Refuses 1 [.regWrite i r w] s .linkWriteWhileEnabled := .single (runOp_regWrite_enabled i r w s hen hlink)

/-- The read of a write of named fields is done, its write is refused. -/
theorem refuses_rmw {i : Nat} (hen : (s.chan i).ccr.en = true) (hlink : isLinkReg r = true) (fs : List (Fld × Word)) :
    Refuses 2 [.rmw i r fs] s .linkWriteWhileEnabled := .go (runOp_rmw i r fs s) (refuses_regWrite hen hlink _)

theorem refuses_fieldOps (hen : (s.chan ch.toNat).ccr.en = true) (hlink : isLinkReg r = true)
    (fs : List (Fld × Word)) : Refuses 2 (fieldOps ch r fs) s .linkWriteWhileEnabled := by
  have hccr : r ≠ .ccr := by rintro rfl; cases hlink
  rw [fieldOps, if_neg hccr]
  exact refuses_rmw hen hlink fs

theorem microOk_refused (hr : Ready s) (hch : Has s ch) (h : Refuses n ops s e) (hn : n ≤ 64) :
    microOk ch ops s = .refused e :=
  command_refused hr (decide_eq_true hch) nofun (h.append _) (by rwa [List.length_nil, Nat.zero_add])

/-- A whole-word write of a link register. -/
theorem microOk_regWrite_refused (hr : Ready s) (hch : Has s ch) (hen : (s.chan ch.toNat).ccr.en = true)
    (hlink : isLinkReg r = true) (w : Word) :
    microOk ch [.regWrite ch.toNat r w] s = .refused .linkWriteWhileEnabled :=
  microOk_refused hr hch (refuses_regWrite hen hlink w) (by decide)

/-- A write of named fields of a link register. -/
theorem microOk_fieldOps_refused (hr : Ready s) (hch : Has s ch) (hen : (s.chan ch.toNat).ccr.en = true)
    (hlink : isLinkReg r = true) (fs : List (Fld × Word)) :
    microOk ch (fieldOps ch r fs) s = .refused .linkWriteWhileEnabled :=
  microOk_refused hr hch (refuses_fieldOps hen hlink fs) (by decide)

/-- Each row of a link word is a write of CLLR (log 28). -/
theorem exec_linkRows {m : BitVec 8} {d : BitVec 7} {la : BitVec 14} {i : Instr}
    (hi : i ∈ [Instr.link ch m la, .linkEnd ch, .linkStaticLinear ch la, .linkStaticTwoDimensional ch la,
      .linkDynamic ch d la]) (s : State) : ∃ w, exec i s = microOk ch [.regWrite ch.toNat .cllr w] s := by
  simp only [List.mem_cons, List.not_mem_nil, or_false] at hi
  obtain rfl | rfl | rfl | rfl | rfl := hi <;> exact ⟨_, rfl⟩

end LinkWrites

/-! ## Configuring commands over a running channel (93_implementation_defined.md U5, U3) -/

section Configuring

variable {n : Nat} {s : State} {ch : ChId} {ops : List HostOp} {legal g : Bool} {i : Instr}

/-- A security setting writes SecAttr, which is no link register, then CTR1. -/
theorem refuses_securityWrites (hch : Has s ch) (hen : (s.chan ch.toNat).ccr.en = true) (x : Security) :
    Refuses 4 (securityWrites ch.toNat x) s .linkWriteWhileEnabled := by
  have hsec := writable_of_control (s := s) (ch := ch) (r := .secAttr) rfl
  have hen' (w : Word) : ((s.onChan ch.toNat (writeReg s.cfg .secAttr w)).chan ch.toNat).ccr.en = true := by
    rw [State.chan_onChan_same s _ _ hch, writeReg_en (by decide), hen]
  exact (refuses_rmw (hen' _) rfl _).after (.op (runOp_rmw ..) (.single (runOp_regWrite_writable hsec _)))

/-- The test of U5 on a channel whose handle says `Idle`. -/
theorem refuses_idleOverRunning (hen : (s.chan ch.toNat).ccr.en = true) (hlife : life s ch = .idle) :
    Refuses 1 [.idleOverRunning ch.toNat] s .idleOverRunning :=
  .single (by rw [runOp_idleOverRunning, if_pos ⟨hlife, hen⟩])

/-- The test of U5 on a channel whose handle says `Init`. -/
theorem runs_idleOverRunning_init (hlife : life s ch = .init) : Runs 1 [.idleOverRunning ch.toNat] s s :=
  .single (by simp [runOp_idleOverRunning, hlife])

/-- A setter whose preconditions hold, refused behind them. -/
theorem setter_refused {e : Refusal} (hr : Ready s) (hch : Has s ch)
    (hp : (legal && configurable (life s ch)) = true) (h : Refuses n (.idleOverRunning ch.toNat :: ops) s e)
    (hn : n ≤ 63) : setter ch legal ops s = .refused e := by
  obtain ⟨hlegal, hlife⟩ := Bool.and_eq_true_iff.mp hp
  have hoperands : (s.hasChan ch.toNat && legal) = true := by simpa [State.hasChan, hlegal] using hch
  refine command_refused hr hoperands (passes_stateIn ((setterStates_contains _).trans hlife)) (h.append _) ?_
  rw [List.length_singleton]
  omega

theorem setter_idle_refused (hr : Ready s) (hch : Has s ch) (hen : (s.chan ch.toNat).ccr.en = true)
    (hlife : life s ch = .idle) (hp : (legal && configurable (life s ch)) = true) :
    setter ch legal ops s = .refused .idleOverRunning :=
  setter_refused hr hch hp ((refuses_idleOverRunning hen hlife).append ops) (by decide)

/-- In the state `Init` a setter comes to its writes. -/
theorem setter_init_refused (hr : Ready s) (hch : Has s ch) (hlife : life s ch = .init)
    (hp : (legal && configurable (life s ch)) = true) (h : Refuses n ops s .linkWriteWhileEnabled) (hn : n ≤ 62) :
    setter ch legal ops s = .refused .linkWriteWhileEnabled :=
  setter_refused hr hch hp (h.after (runs_idleOverRunning_init hlife)) (by omega)

/-- A start whose preconditions hold in the state `Idle`. -/
theorem startFrame_refused {modes : List Mode} (hr : Ready s) (hen : (s.chan ch.toNat).ccr.en = true)
    (hlife : life s ch = .idle) (hoperands : legal = true)
    (hmode : modes.contains (s.chan ch.toNat).h.mode = true) :
    startFrame ch legal modes ops s = .refused .idleOverRunning := by
  have hguards : ∀ g ∈ [.busyTest ch.toNat, stateIn ch [.idle], modeIn ch modes], Passes s g :=
    List.forall_mem_cons.mpr ⟨passes_busyTest (hlife.trans_ne (by decide)),
      List.forall_mem_cons.mpr ⟨passes_require (by simp [handleTest, hlife]),
        List.forall_mem_singleton.mpr (passes_require hmode)⟩⟩
  exact command_refused hr hoperands hguards ((refuses_idleOverRunning hen hlife).append ops) (by simp)

theorem startDirect_refused {src dst size : Word} {set : IntSet} (hr : Ready s)
    (hen : (s.chan ch.toNat).ccr.en = true) (hlife : life s ch = .idle)
    (hp : directStartOk s ch src dst size = true) :
    startDirect ch src dst size set s = .refused .idleOverRunning := by
  obtain ⟨hoperands, hmode⟩ : directOperands ch src dst size s = true ∧ (s.chan ch.toNat).h.mode = .direct := by
    simpa [hlife] using hp
  exact startFrame_refused hr hen hlife hoperands (by rw [hmode]; rfl)

theorem startList_refused {q : Word} {set : IntSet} (hr : Ready s) (hen : (s.chan ch.toNat).ccr.en = true)
    (hlife : life s ch = .idle) (hp : listStartOk s ch q = true) :
    startList ch q set s = .refused .idleOverRunning := by
  obtain ⟨hoperands, hmode⟩ : listOperands ch q s = true ∧ (s.chan ch.toNat).h.mode ≠ .direct := by
    simpa [hlife] using hp
  refine startFrame_refused hr hen hlife hoperands ?_
  cases hm : (s.chan ch.toNat).h.mode
  case direct => exact absurd hm hmode
  all_goals rfl

/-- Every start, setter and `set_config` whose preconditions hold in the state `Idle` (U5). -/
theorem configures_idle_refused (hr : Ready s) (hch : Has s ch) (hen : (s.chan ch.toNat).ccr.en = true)
    (hi : configures i = true) (hp : Claims.Precondition s ch i g) (hg : g = true) (hlife : life s ch = .idle) :
    exec i s = .refused .idleOverRunning := by
  cases hp
  case setConfigDirect | setConfigLinkedList | setHwRequestMode | resetHwRequestMode | setPort | resetPort | setBurst
      | resetBurst | setTrigger | resetTrigger | setDataHandling | resetDataHandling | setRepeatBlock
      | resetRepeatBlock | setSecurity | resetSecurity =>
    exact setter_idle_refused hr hch hen hlife hg
  case startDirect | startDirectSilent | startDirectIt => exact startDirect_refused hr hen hlife hg
  case startDirectItOpt =>
    obtain ⟨hset, hstart⟩ := Bool.and_eq_true_iff.mp hg
    exact (if_neg (bne_iff_ne.mp hset)).trans (startDirect_refused hr hen hlife hstart)
  case startLinkedList | startLinkedListSilent | startLinkedListIt | startLinkedListItOpt =>
    exact startList_refused hr hen hlife hg
  all_goals cases hi

/-- Every setter that writes a link register, whose preconditions hold in the state `Init` (U3). No start has its
preconditions in that state. -/
theorem configures_init_refused (hr : Ready s) (hch : Has s ch) (hen : (s.chan ch.toNat).ccr.en = true)
    (hi : configures i = true) (hp : Claims.Precondition s ch i g) (hg : g = true) (hlife : life s ch = .init)
    (hlist : ∀ p, i ≠ .setConfigLinkedList ch p) : exec i s = .refused .linkWriteWhileEnabled := by
  have hrmw {r : Reg} (hlink : isLinkReg r = true) (fs : List (Fld × Word)) :
      Refuses 2 [.rmw ch.toNat r fs] s .linkWriteWhileEnabled := refuses_rmw hen hlink fs
  cases hp
  case setConfigLinkedList p => exact absurd rfl (hlist p)
  case setHwRequestMode | resetHwRequestMode | setPort | resetPort | setBurst | resetBurst | setTrigger | resetTrigger
      | setDataHandling | resetDataHandling =>
    exact setter_init_refused hr hch hlife hg (hrmw rfl _) (by decide)
  case setConfigDirect | setRepeatBlock | resetRepeatBlock =>
    exact setter_init_refused hr hch hlife hg ((hrmw rfl _).append _) (by decide)
  case setSecurity | resetSecurity =>
    exact setter_init_refused hr hch hlife hg (refuses_securityWrites hch hen _) (by decide)
  case startDirect | startDirectSilent | startDirectIt | startDirectItOpt | startLinkedList | startLinkedListSilent
      | startLinkedListIt | startLinkedListItOpt =>
    simp [hlife] at hg
  all_goals cases hi

end Configuring

/-- Settles O21: the micro-operations and the link words come to a refused write of a link register, the configuring
commands to the test of U5 or, in the state `Init`, to such a write. -/
theorem enabledLinkWriteRefused : Obligations.EnabledLinkWriteRefused := by
  unfold Obligations.EnabledLinkWriteRefused
  intro ch s hr hch hen
  refine ⟨fun r w hlink => microOk_regWrite_refused hr hch hen hlink w,
    fun f v hlink => microOk_fieldOps_refused hr hch hen hlink _,
    fun r fs hlink => microOk_fieldOps_refused hr hch hen hlink fs, fun m d la i hi => ?linkWord, fun i hi hp =>
      ⟨configures_idle_refused hr hch hen hi hp rfl, configures_init_refused hr hch hen hi hp rfl⟩⟩
  case linkWord =>
    obtain ⟨w, hexec⟩ := exec_linkRows hi s
    exact hexec.trans (microOk_regWrite_refused hr hch hen rfl w)

end Sys2Proof.Refusals
end

section
/-! Interrupts (60_exceptions.md): the line of a channel and the taking of an interrupt (O33), and what `irq_handler`
does with callbacks that issue no command (O34). -/

namespace Sys2Proof.Interrupts

open Sys2Proof.Machine Sys2Proof.Claims Sys2Proof.Scope Sys2Proof.RegisterFile Sys2Proof.QueueEdits
  Sys2Proof.Configuration Sys2Proof.Transfers

/-! ## The line (60_exceptions.md R352; 30_encoding.md R115) -/

section Line

/-- The flags with their enables. -/
abbrev flagEnables : List (Fld × Fld) :=
  [(.ht, .htie), (.tc, .tcie), (.suspf, .suspie), (.dte, .dteie), (.ule, .uleie), (.use, .useie), (.tov, .toie)]

/-- The line as the words of CSR and CCR show it. -/
theorem irqLine_iff {L : Layout} (hL : L.wf = true) (sr : Csr) (cr : Ccr) :
    irqLine sr cr = true ↔
      ∃ p ∈ flagEnables, p.1.test L (csrWord L sr) = true ∧ p.2.test L (ccrWord L cr) = true := by
  have hline : irqLine sr cr =
      flagsAny (flagsAnd (FlagSet.ofWord L (csrWord L sr)) (FlagSet.ofEnables L (ccrWord L cr))) := by
    rw [ofWord_csrWord hL, ofEnables_ccrWord hL]
    rfl
  rw [hline]
  simp only [flagsAny, flagsAnd, flagsMap2, FlagSet.ofWord, FlagSet.ofEnables, Bool.or_eq_true, Bool.and_eq_true,
    flagEnables, List.exists_mem_cons_iff, List.not_mem_nil, false_and, exists_false, or_false, or_assoc]
  rw [or_left_comm (a := Fld.use.test L _ = true ∧ _)]

/-- The positions of the seven flags, and of their enables, in LAYOUT_U5 (log 3). -/
abbrev flagPositions : List Nat := [9, 8, 13, 10, 11, 12, 14]

/-- A bit under the mask of the seven flags of LAYOUT_U5. -/
theorem and_flagMask_ne_zero_iff (x : Word) :
    x &&& 0x00007F00 ≠ 0 ↔ ∃ j ∈ flagPositions, x.getLsbD j = true := by
  have hmask : ∀ j < 32, (0x00007F00 : Word).getLsbD j = decide (j ∈ flagPositions) := by decide
  rw [← not_iff_not, not_not]
  constructor
  · rintro hzero ⟨j, hj, hbit⟩
    have hj32 : j < 32 := BitVec.lt_of_getLsbD hbit
    have hbits : (x &&& 0x00007F00).getLsbD j = true := by
      rw [BitVec.getLsbD_and, hbit, hmask j hj32, decide_eq_true hj, Bool.and_true]
    rw [hzero] at hbits
    simp at hbits
  · intro hnone
    refine BitVec.eq_of_getLsbD_eq fun j hj => ?_
    rw [BitVec.getLsbD_and, hmask j hj]
    by_cases hmem : j ∈ flagPositions
    · simp [Bool.eq_false_iff.mpr fun hbit => hnone ⟨j, hmem, hbit⟩]
    · simp [hmem]

/-- Under LAYOUT_U5 a flag and its enable have one position. -/
theorem flagEnables_u5 : flagEnables.map (fun p => (p.1.lo Layout.u5, p.2.lo Layout.u5)) =
    flagPositions.map fun j => (j, j) := by decide

/-- Under LAYOUT_U5 some flag reads 1 with its enable exactly when the two words share a bit of the flags. -/
theorem exists_flagEnables_u5_iff (sr cr : Word) :
    (∃ p ∈ flagEnables, p.1.test Layout.u5 sr = true ∧ p.2.test Layout.u5 cr = true) ↔
      sr &&& cr &&& 0x00007F00 ≠ 0 := by
  rw [and_flagMask_ne_zero_iff]
  calc (∃ p ∈ flagEnables, p.1.test Layout.u5 sr = true ∧ p.2.test Layout.u5 cr = true)
      ↔ ∃ l ∈ flagEnables.map (fun p => (p.1.lo Layout.u5, p.2.lo Layout.u5)),
          sr.getLsbD l.1 = true ∧ cr.getLsbD l.2 = true := by
        simp only [List.mem_map, exists_exists_and_eq_and]
        rfl
    _ ↔ ∃ j ∈ flagPositions, sr.getLsbD j = true ∧ cr.getLsbD j = true := by
      simp only [flagEnables_u5, List.mem_map, exists_exists_and_eq_and]
    _ ↔ ∃ j ∈ flagPositions, (sr &&& cr).getLsbD j = true := by
      simp only [BitVec.getLsbD_and, Bool.and_eq_true]

end Line

/-! ## Taking an interrupt (60_exceptions.md R354, R357; log 1) -/

section Taking

variable {s : State} {n : Nat}

theorem takeInterrupt_high (hch : n < s.chans.length) (hisr : s.isr = none) (hline : s.irqLine n = true) :
    takeInterrupt n s = { s with isr := some ⟨n, false, none, none, []⟩ } := by
  simp [takeInterrupt, State.hasChan, hch, hisr, hline]

theorem takeInterrupt_passes (h : s.chans.length ≤ n ∨ s.isr.isSome = true ∨ s.irqLine n = false) :
    takeInterrupt n s = s := by
  refine if_neg fun htaken => ?_
  simp only [State.hasChan, Bool.and_eq_true, decide_eq_true_eq, Option.isNone_iff_eq_none] at htaken
  obtain ⟨⟨hisr, hch⟩, hline⟩ := htaken
  rcases h with h | h | h
  · omega
  · simp [hisr] at h
  · simp [hline] at h

end Taking

/-- Settles O33: the flags and the enables read back from their words, and a turn for an interrupt takes it or
passes. -/
theorem takeInterruptResult : Obligations.TakeInterruptResult := by
  unfold Obligations.TakeInterruptResult
  constructor
  case left =>
    intro s i hk L sr cr
    have hline := irqLine_iff (Cfg.wf_layout hk) (s.chan i).csr (s.chan i).ccr
    refine ⟨hline, fun hu5 => hline.trans ?_⟩
    have hshared := exists_flagEnables_u5_iff sr cr
    rwa [← hu5] at hshared
  case right =>
    intro s n rest hagenda
    have hturn : step s = .next (takeInterrupt n { s with agenda := rest }) := step_of_agenda hagenda
    refine ⟨fun hch hisr hhigh => ?_, fun h => ?_⟩
    · exact hturn.trans (congrArg _ (takeInterrupt_high (s := { s with agenda := rest }) hch hisr hhigh))
    · exact hturn.trans (congrArg _ (takeInterrupt_passes (s := { s with agenda := rest }) h))

/-! ## What the handler leaves (60_exceptions.md R360 to R366) -/

section Handler

variable {s : State} {i : Nat} {d : Channel} {slots : List Slot} {ops : List HostOp}
  {g : Channel → Channel} {ch : ChId}

/-- Inside the handler of channel `i`: the channel is now `d`, the callbacks in `slots` have fired, the rest is as in
`s`. -/
def served (s : State) (i : Nat) (d : Channel) (slots : List Slot) : State :=
  { s.setChan i d with trace := s.trace ++ slots.map fun x => .callback x i }

theorem served_self (s : State) (i : Nat) : served s i (s.chan i) [] = s := by
  simp [served, State.setChan_self]

theorem served_chan (hi : i < s.chans.length) : (served s i d slots).chan i = d := State.chan_setChan_same s i d hi

theorem served_onChan (hi : i < s.chans.length) :
    (served s i d slots).onChan i g = served s i (g d) slots := by
  rw [State.onChan, served_chan hi]
  simp [served, State.setChan]

/-- Accesses of the handler to its channel. -/
theorem runs_served_acts (hi : i < s.chans.length) (h : Acts i ops g) :
    Runs ops.length ops (served s i d slots) (served s i (g d) slots) :=
  served_onChan (g := g) hi ▸ h (served s i d slots) (by simpa [served] using hi)

/-- The callbacks of channel `i` issue no command (93_implementation_defined.md U14). -/
def Quiet (s : State) (i : Nat) : Prop := ∀ slot, bodyOps s (callbackSlot slot (s.chan i).h.cb) = []

/-- A callback that issues no command is recorded, and the handler goes on. -/
theorem runs_served_emit (hi : i < s.chans.length) (hq : Quiet s i) (hcb : d.h.cb = (s.chan i).h.cb) (slot : Slot) :
    Runs 1 [.emit i slot] (served s i d slots) (served s i d (slots ++ [slot])) := by
  have hbody : bodyOps (served s i d slots) (callbackSlot slot ((served s i d slots).chan i).h.cb) = [] := by
    rw [served_chan hi, hcb]
    exact hq slot
  have htrace : { served s i d slots with trace := (served s i d slots).trace ++ [.callback slot i] } =
      served s i d (slots ++ [slot]) := by simp [served]
  exact .single (by rw [runOp, hbody, htrace])

/-- The handler has returned to HOST-APP (60_exceptions.md R358, R366). -/
def returned (s : State) (i : Nat) (d : Channel) (slots : List Slot) : State := { served s i d slots with isr := none }

/-- The end of a branch: accesses to the channel, its callback, the return. -/
theorem runs_acts_emit_return (hi : i < s.chans.length) (hq : Quiet s i) (h : Acts i ops g)
    (hcb : (g d).h.cb = (s.chan i).h.cb) (slot : Slot) :
    Runs (ops.length + 2) (ops ++ [HostOp.emit i slot, HostOp.isrReturn]) (served s i d slots)
      (returned s i (g d) (slots ++ [slot])) :=
  (runs_served_acts hi h).append ((runs_served_emit hi hq hcb slot).append (.single rfl))

/-! ### The branches (60_exceptions.md R363 to R366) -/

/-- The half-complete part of the handler (R363). -/
def halfOps (i : Nat) (c : Channel) : List HostOp :=
  if c.csr.flags.ht && c.ccr.ie.ht then [.flagClear i flagHT, .emit i .half] else []

/-- The channel once the half-complete part has run. -/
def halfCleared (c : Channel) : Channel := { c with csr := { c.csr with flags := halfServed c } }

theorem halfCleared_acting {c : Channel} (h : (c.csr.flags.ht && c.ccr.ie.ht) = true) :
    halfCleared c = pollMet .halfComplete c := by
  obtain ⟨hflag, henable⟩ := Bool.and_eq_true_iff.mp h
  simp [halfCleared, halfServed, henable]

theorem halfCleared_not_acting {c : Channel} (h : (c.csr.flags.ht && c.ccr.ie.ht) = false) : halfCleared c = c := by
  have hkept : (c.csr.flags.ht && !c.ccr.ie.ht) = c.csr.flags.ht := by
    cases hflag : c.csr.flags.ht <;> simp_all
  rw [halfCleared, halfServed, hkept]

theorem runs_halfOps (hi : i < s.chans.length) (hq : Quiet s i) :
    ∃ n ≤ 2, Runs n (halfOps i (s.chan i)) s (served s i (halfCleared (s.chan i)) (halfFired (s.chan i))) := by
  unfold halfOps halfFired
  split
  case isTrue hht =>
    have hclear := runs_served_acts (d := s.chan i) (slots := []) hi acts_clearHalf
    rw [served_self, ← halfCleared_acting hht] at hclear
    have hruns := hclear.append (runs_served_emit (d := halfCleared (s.chan i)) hi hq rfl .half)
    exact ⟨2, le_rfl, hruns⟩
  case isFalse hht =>
    rw [halfCleared_not_acting (Bool.eq_false_iff.mpr hht), served_self]
    exact ⟨0, Nat.zero_le 2, .nil s⟩

theorem flagsDiff_tc (f : FlagSet) : flagsDiff f flagTC = { f with tc := false } := by
  simp [flagsDiff, flagsMap2, flagTC, FlagSet.empty]

theorem acts_clearTc : Acts i [.flagClear i flagTC]
    fun c => { c with csr := { c.csr with flags := { c.csr.flags with tc := false } } } :=
  .congr (f := chFlagClear flagTC) (.single fun _ => rfl) fun c => by rw [chFlagClear, flagsDiff_tc]

theorem acts_clearSuspf : Acts i [.flagClear i flagSUSPF]
    fun c => { c with csr := { c.csr with flags := { c.csr.flags with suspf := false } } } :=
  .congr (f := chFlagClear flagSUSPF) (.single fun _ => rfl) fun c => by rw [chFlagClear, flagsDiff_suspf]

theorem acts_ieWrite (fs : FlagSet) : Acts i [.ieWrite i fs] (chIeWrite fs) := .single fun _ => rfl

theorem acts_nil (i : Nat) : Acts i [] id := fun s _ => by rw [onChan_id]; exact .nil s

theorem runOp_idleTest (hi : i < s.chans.length) : runOp (.idleTest i) (served s i d slots) =
    .go (completeOps i d.csr.idle) (served s i d slots) := by rw [runOp, served_chan hi]

theorem runOp_suspendedTest (hi : i < s.chans.length) : runOp (.suspendedTest i) (served s i d slots) =
    .go (suspendedOps i (decide (d.h.state = .abort))) (served s i d slots) := by rw [runOp, served_chan hi]

/-- The start of a branch: its flag cleared, then its test, with what follows from that. -/
theorem runs_clear_test {n : Nat} {fs : FlagSet} {test : HostOp} {t : State} (hi : i < s.chans.length)
    (hclear : Acts i [.flagClear i fs] g)
    (htest : runOp test (served s i (g d) slots) = .go ops (served s i (g d) slots))
    (h : Runs n ops (served s i (g d) slots) t) :
    Runs (1 + (n + 1)) [.flagClear i fs, test] (served s i d slots) t :=
  (runs_served_acts hi hclear).append (.op htest h)

section Branches

variable (hi : i < s.chans.length) (hq : Quiet s i) (hcb : d.h.cb = (s.chan i).h.cb)
include hi hq hcb

/-- Full-complete of an idle channel (R364). -/
theorem runs_complete_idle (hidle : d.csr.idle = true) :
    Runs 6 [.flagClear i flagTC, .idleTest i] (served s i d slots) (returned s i
      { d with
        csr := { d.csr with flags := { d.csr.flags with tc := false } }
        ccr := { d.ccr with ie := FlagSet.empty }
        h := { d.h with state := .idle } } (slots ++ [.complete])) := by
  refine runs_clear_test (n := 4) hi acts_clearTc (runOp_idleTest hi) ?_
  rw [hidle]
  refine runs_acts_emit_return hi hq ((acts_ieWrite FlagSet.empty).cons (acts_setState .idle)) ?_ .complete
  exact hcb

/-- Full-complete of a channel that goes on (R364). -/
theorem runs_complete_running (hidle : d.csr.idle = false) :
    Runs 4 [.flagClear i flagTC, .idleTest i] (served s i d slots) (returned s i
      { d with csr := { d.csr with flags := { d.csr.flags with tc := false } } } (slots ++ [.complete])) := by
  refine runs_clear_test (n := 2) hi acts_clearTc (runOp_idleTest hi) ?_
  rw [hidle]
  refine runs_acts_emit_return hi hq (acts_nil i) ?_ .complete
  exact hcb

/-- Suspended on the way to an abort (R365). -/
theorem runs_suspended_abort (hstate : d.h.state = .abort) :
    Runs 7 [.flagClear i flagSUSPF, .suspendedTest i] (served s i d slots) (returned s i
      { wiped d with
        ccr := { d.ccr with en := false, susp := false, ie := FlagSet.empty }
        h := { d.h with state := .idle } } (slots ++ [.abort])) := by
  refine runs_clear_test (n := 5) hi acts_clearSuspf (runOp_suspendedTest hi) ?_
  rw [decide_eq_true hstate]
  refine runs_acts_emit_return hi hq
    (acts_reset.cons ((acts_ieWrite FlagSet.empty).cons (acts_setState .idle))) ?_ .abort
  exact hcb

/-- Suspended at the host's request (R365). -/
theorem runs_suspended (hstate : d.h.state ≠ .abort) :
    Runs 5 [.flagClear i flagSUSPF, .suspendedTest i] (served s i d slots) (returned s i
      { d with
        csr := { d.csr with flags := { d.csr.flags with suspf := false } }
        h := { d.h with state := .suspend } } (slots ++ [.suspend])) := by
  refine runs_clear_test (n := 3) hi acts_clearSuspf (runOp_suspendedTest hi) ?_
  rw [decide_eq_false hstate]
  refine runs_acts_emit_return hi hq (acts_setState .suspend) ?_ .suspend
  exact hcb

/-- The error flags together (R366; 10_state.md R40). -/
theorem runs_errors {e : BitVec 4} {fs : FlagSet} :
    Runs (2 + 5) [.orError i e, .flagClear i fs, .chReset i, .setState i .idle, .emit i .error, .isrReturn]
      (served s i d slots) (returned s i
        { wiped d with h := { d.h with
            state := .idle, lastError := lastErrorTo s (d.h.lastError ||| e) d.h } } (slots ++ [.error])) := by
  have hor := runs_orError (served s i d slots) i e
  rw [served_onChan hi] at hor
  have hclear : Acts i [.flagClear i fs] (chFlagClear fs) := .single fun _ => rfl
  refine hor.append (runs_acts_emit_return hi hq (hclear.cons (acts_reset.cons (acts_setState .idle))) ?_ .error)
  exact hcb

end Branches

/-! ### Which branch runs (60_exceptions.md R360) -/

section Selection

variable {c : Channel}

theorem handlerOps_tc (i : Nat) (htc : (c.csr.flags.tc && c.ccr.ie.tc) = true) :
    handlerOps i c.csr c.ccr = halfOps i c ++ [.flagClear i flagTC, .idleTest i] :=
  congrArg (halfOps i c ++ ·) (if_pos htc)

theorem handlerOps_suspf (i : Nat) (htc : (c.csr.flags.tc && c.ccr.ie.tc) = false)
    (hsuspf : (c.csr.flags.suspf && c.ccr.ie.suspf) = true) :
    handlerOps i c.csr c.ccr = halfOps i c ++ [.flagClear i flagSUSPF, .suspendedTest i] :=
  congrArg (halfOps i c ++ ·) ((if_neg (Bool.eq_false_iff.mp htc)).trans (if_pos hsuspf))

/-- The error flags of those that act (R366). -/
theorem errorSet_acting (c : Channel) :
    flagsAny (errorsOf (actingFlags c.csr c.ccr)) = errorSet (actingErrors c) := errorsOf_any _

theorem errbits_acting (c : Channel) :
    errbits (errorsOf (actingFlags c.csr c.ccr)) = errorBits (actingErrors c) := errbits_errorsOf _

theorem handlerOps_errors (i : Nat) (htc : (c.csr.flags.tc && c.ccr.ie.tc) = false)
    (hsuspf : (c.csr.flags.suspf && c.ccr.ie.suspf) = false) (herror : errorSet (actingErrors c) = true) :
    handlerOps i c.csr c.ccr = halfOps i c ++
      [.orError i (errorBits (actingErrors c)), .flagClear i (errorsOf (actingFlags c.csr c.ccr)), .chReset i,
        .setState i .idle, .emit i .error, .isrReturn] := by
  rw [← errorSet_acting] at herror
  rw [← errbits_acting]
  exact congrArg (halfOps i c ++ ·) ((if_neg (Bool.eq_false_iff.mp htc)).trans
    ((if_neg (Bool.eq_false_iff.mp hsuspf)).trans (if_pos herror)))

theorem handlerOps_none (i : Nat) (htc : (c.csr.flags.tc && c.ccr.ie.tc) = false)
    (hsuspf : (c.csr.flags.suspf && c.ccr.ie.suspf) = false) (herror : errorSet (actingErrors c) = false) :
    handlerOps i c.csr c.ccr = halfOps i c ++ [.isrReturn] := by
  rw [← errorSet_acting] at herror
  exact congrArg (halfOps i c ++ ·) ((if_neg (Bool.eq_false_iff.mp htc)).trans
    ((if_neg (Bool.eq_false_iff.mp hsuspf)).trans (if_neg (Bool.eq_false_iff.mp herror))))

end Selection

/-! ### The whole handler -/

/-- The handler once it has read CSR and CCR (R360). -/
def snapped (s : State) (i : Nat) : State :=
  { s with isr := some ⟨i, true, some (s.chan i).csr, some (s.chan i).ccr, []⟩ }

/-- `irq_handler` reads CSR and CCR, runs its half-complete part, then the operations `ops` of one branch. -/
theorem exec_irqHandler {n : Nat} {d' : Channel} {slots' : List Slot} (he : Entered s ch)
    (hops : handlerOps ch.toNat (s.chan ch.toNat).csr (s.chan ch.toNat).ccr = halfOps ch.toNat (s.chan ch.toNat) ++ ops)
    (h : Runs n ops
      (served (snapped s ch.toNat) ch.toNat (halfCleared (s.chan ch.toNat)) (halfFired (s.chan ch.toNat)))
      (returned (snapped s ch.toNat) ch.toNat d' slots')) (hn : n ≤ 60) :
    exec (.irqHandler ch) s = .next (returned s ch.toNat d' slots') := by
  obtain ⟨hisr, hquantum, hch, hquiet⟩ := he
  have hentered : (s.hasChan ch.toNat && handlerEntered ch s) = true := by
    simp [State.hasChan, hch, handlerEntered, hisr]
  obtain ⟨k, hk, hhalf⟩ := runs_halfOps (s := snapped s ch.toNat) hch hquiet
  have hbranches : Runs (k + n) (handlerOps ch.toNat (s.chan ch.toNat).csr (s.chan ch.toNat).ccr)
      (snapped s ch.toNat) (returned (snapped s ch.toNat) ch.toNat d' slots') := hops ▸ hhalf.append h
  have hruns : Runs (k + n + 1 + 1) [.snapCsr ch.toNat] { s with isr := some ⟨ch.toNat, true, none, none, []⟩ }
      (returned (snapped s ch.toNat) ch.toNat d' slots') := .op rfl (.op rfl hbranches)
  have hdone := hruns 0 []
  rw [runOps_nil] at hdone
  calc exec (.irqHandler ch) s
      = runHost [.snapCsr ch.toNat] { s with isr := s.isr.map fun h => { h with begun := true } } := if_pos hentered
    _ = .next (returned s ch.toNat d' slots') := by
      rw [hisr]
      exact runHost_returned rfl (show k + n + 1 + 1 ≤ s.quantum by omega) hdone rfl rfl

end Handler

/-- Settles O34: the flags that act select the branch, whose operations run one after the other. -/
theorem handlerResult : Obligations.HandlerResult := by
  unfold Obligations.HandlerResult
  intro ch s he c tc suspf
  have hcb : (halfCleared c).h.cb = ((snapped s ch.toNat).chan ch.toNat).h.cb := rfl
  obtain ⟨hi, hq⟩ : ch.toNat < (snapped s ch.toNat).chans.length ∧ Quiet (snapped s ch.toNat) ch.toNat := by
    obtain ⟨-, -, hch, hquiet⟩ := he
    exact ⟨hch, hquiet⟩
  refine ⟨fun htc hidle => ?completeIdle, fun htc hidle => ?complete, fun htc hsuspf hstate => ?abort,
    fun htc hsuspf hstate => ?suspend, fun htc hsuspf herror => ?errors, fun htc hsuspf herror => ?none⟩
  case completeIdle =>
    exact exec_irqHandler he (handlerOps_tc _ htc) (runs_complete_idle hi hq hcb hidle) (by decide)
  case complete =>
    exact exec_irqHandler he (handlerOps_tc _ htc) (runs_complete_running hi hq hcb hidle) (by decide)
  case abort =>
    exact exec_irqHandler he (handlerOps_suspf _ htc hsuspf) (runs_suspended_abort hi hq hcb hstate) (by decide)
  case suspend =>
    exact exec_irqHandler he (handlerOps_suspf _ htc hsuspf) (runs_suspended hi hq hcb hstate) (by decide)
  case errors =>
    exact exec_irqHandler he (handlerOps_errors _ htc hsuspf herror) (runs_errors hi hq hcb) (by decide)
  case none => exact exec_irqHandler he (handlerOps_none _ htc hsuspf herror) (.single rfl) (by decide)

end Sys2Proof.Interrupts
end
